-- ==== Sys2Proof/Word.lean ====
section
/-! DEFINITION. The two words of the device: a pixel byte and a 32-bit register value. -/

namespace Sys2Proof

/-- `u8` of rule R8: one byte of a frame buffer or of a transaction's data. -/
abbrev Byte := BitVec 8

/-- `u32` of rule R8: one register of the control window. -/
abbrev Word := BitVec 32

end Sys2Proof
end

