-- ==== Sys2Proof/Config.lean ====
section
/-! DEFINITION. The construction parameters of a device (rule R6), the constraints on them (rules R6, R7), and the
free values of the general rotation (rule R147). A device carries its parameters in `Machine.State.cfg`, which no step
writes, so a statement about every state is a statement about every parameter value. -/

namespace Sys2Proof

/-- How the general rotation path is held (rule R147).
`parameter`: the free function of `Config.rotCanvas` and `Config.rotSource`, of which only P1 to P4 are known.
`ideal`: the instantiation of rules R145 and R146, which rule R147 recommends for simulation. -/
inductive RotProfile where
  | parameter
  | ideal
deriving DecidableEq, Repr

/-- The parameters of rule R6, each under the spec's name.
`deviceBase` is a global address, which the dispatcher subtracts; every other address here is device-local.
`timed` and `rotProfile` choose between the two readings that rules R118 and R147 each give.
`processingDelay` is a whole number of time units, where R6 says "≥ 0, in the kernel's time unit" (DESIGN CHOICE, log entry
27). -/
structure Config where
  maxWidth : Nat
  maxHeight : Nat
  /-- `CHANNELS`: bytes per pixel of both buffers. -/
  channels : Nat
  controlBase : Nat
  ctrlEnableBit : Nat
  ctrlIrqEnableBit : Nat
  ctrlStartBit : Nat
  statBusyBit : Nat
  statDoneBit : Nat
  statErrorBit : Nat
  opScale : Word
  opRotate : Word
  opRgbToYuv : Word
  opYuvToRgb : Word
  fmtRgb888 : Word
  fmtRgb565 : Word
  fmtYuv420 : Word
  scaleOne : Nat
  scaleMax : Nat
  angleLimit : Nat
  fill : Byte
  rotMargin : Nat
  processingDelay : Nat
  irqNumber : Nat
  /-- `PROCESSING_ATOMIC` of rule R124: true, the completion event is one step; false, it is BEGIN and then FINISH. -/
  processingAtomic : Bool
  /-- True for the timed reading of rule R118, false for the untimed reading it recommends. -/
  timed : Bool
  /-- `DEVICE_BASE`: the global address of device-local address 0. -/
  deviceBase : Nat
  rotProfile : RotProfile
deriving DecidableEq, Repr

/-- `FRAME_BUFFER_SIZE = MAX_WIDTH * MAX_HEIGHT * CHANNELS` (rule R6). -/
def Config.frameBufferSize (c : Config) : Nat := c.maxWidth * c.maxHeight * c.channels

/-- The constraints of rule R6 on each parameter, and rule R7: the two windows do not overlap.
The range of `angleLimit` is the model's choice, not R6's constraint: R6 gives the value 360 and none other, and says that
the accepted angles lie strictly between -360 and +360, which every value from 1 to 360 keeps (DESIGN CHOICE, log entry
25). -/
abbrev Config.Legal (c : Config) : Prop :=
  1 ≤ c.maxWidth ∧ 1 ≤ c.maxHeight ∧ (c.channels = 1 ∨ c.channels = 3) ∧ c.frameBufferSize ≤ c.controlBase ∧
  (c.ctrlEnableBit < 32 ∧ c.ctrlIrqEnableBit < 32 ∧ c.ctrlStartBit < 32 ∧
    c.ctrlEnableBit ≠ c.ctrlIrqEnableBit ∧ c.ctrlEnableBit ≠ c.ctrlStartBit ∧ c.ctrlIrqEnableBit ≠ c.ctrlStartBit) ∧
  (c.statBusyBit < 32 ∧ c.statDoneBit < 32 ∧ c.statErrorBit < 32 ∧
    c.statBusyBit ≠ c.statDoneBit ∧ c.statBusyBit ≠ c.statErrorBit ∧ c.statDoneBit ≠ c.statErrorBit) ∧
  (c.opScale ≠ c.opRotate ∧ c.opScale ≠ c.opRgbToYuv ∧ c.opScale ≠ c.opYuvToRgb ∧
    c.opRotate ≠ c.opRgbToYuv ∧ c.opRotate ≠ c.opYuvToRgb ∧ c.opRgbToYuv ≠ c.opYuvToRgb) ∧
  (c.fmtRgb888 ≠ c.fmtRgb565 ∧ c.fmtRgb888 ≠ c.fmtYuv420 ∧ c.fmtRgb565 ≠ c.fmtYuv420) ∧
  1 ≤ c.scaleOne ∧ c.scaleOne ≤ c.scaleMax ∧ 1 ≤ c.angleLimit ∧ c.angleLimit ≤ 360

/-- The values and defaults of rule R6, with the values log entry 2 names for the parameters it leaves OPEN. -/
def Config.standard : Config where
  maxWidth := 1920
  maxHeight := 1080
  channels := 3
  controlBase := 0xff0000
  ctrlEnableBit := 0
  ctrlIrqEnableBit := 1
  ctrlStartBit := 2
  statBusyBit := 0
  statDoneBit := 1
  statErrorBit := 2
  opScale := 0
  opRotate := 1
  opRgbToYuv := 2
  opYuvToRgb := 3
  fmtRgb888 := 0
  fmtRgb565 := 1
  fmtYuv420 := 2
  scaleOne := 100
  scaleMax := 0x7fffffff
  angleLimit := 360
  fill := 255
  rotMargin := 0
  processingDelay := 0
  irqNumber := 0
  processingAtomic := true
  timed := false
  deviceBase := 0
  rotProfile := .ideal

/-- Free value (rule R147, U1): the canvas of a general rotation, a function of `w`, `h`, `an` and `CH` alone (P1). -/
opaque Config.rotCanvas : Nat → Nat → Nat → Nat → Nat × Nat

/-- Free value (rule R147, U1): for `w`, `h`, `an`, `CH`, the image and a destination pixel `(x, y)`, the input pixel
copied there, or none for `FILL`. -/
opaque Config.rotSource : Nat → Nat → Nat → Nat → List Byte → Nat → Nat → Option (Nat × Nat)

end Sys2Proof
end

