-- ==== Sys2Proof/Syntax.lean ====
section
/-! DEFINITION. What the device executes: the transactions, operations and the completion event of
spec/opcode_table.json, one constructor of `Instr` a row, and the codes they are decoded from. -/

namespace Sys2Proof

/-- The ten registers of the control window (rule R62), in address order. -/
inductive Reg where
  | control
  | status
  | srcAddr
  | dstAddr
  | width
  | height
  | operation
  | scaleFactor
  | rotationAngle
  | colorFormat
deriving DecidableEq, Repr

/-- A bus transaction (rule R60). A READ carries an address and a length. A WRITE carries an address and its data, whose
length is the transaction's length. -/
inductive Transaction where
  | read (addr len : Nat)
  | write (addr : Nat) (data : List Byte)
deriving DecidableEq, Repr

/-- The reasons of a protocol violation (rule R171). -/
inductive FatalReason where
  | partialRegisterAccess
  | unmappedControlAddress
  | pixelWindowOverrun
  | unmappedAddress
deriving DecidableEq, Repr

/-- The operation descriptor (rule R25): the six registers a trigger write snapshots. -/
structure Descriptor where
  operation : Word
  width : Word
  height : Word
  scaleFactor : Word
  rotationAngle : Word
  colorFormat : Word
deriving DecidableEq, Repr

/-- The operations of the Transform Engine: the rows `OP.*` of the table less their image dimensions.
`rotateGen` carries the normalised angle of rule R140. -/
inductive Operation where
  | scale (factor : Word)
  | rotate0
  | rotate90
  | rotate180
  | rotate270
  | rotateGen (angle : Nat)
  | rgbToYuv
  | yuvToRgb
deriving DecidableEq, Repr

/-- The instructions, one constructor a row of spec/opcode_table.json.
`pixRd` and `pixWr` carry the transaction's address and length or data, `wr32…` the register value `v`.
`op…` carry the descriptor fields their rule reads: width, height, and the scale factor or the normalised angle. -/
inductive Instr where
  | pixRd (addr len : Nat)
  | pixWr (addr : Nat) (data : List Byte)
  | rd32Control
  | rd32Status
  | rd32SrcAddr
  | rd32DstAddr
  | rd32Width
  | rd32Height
  | rd32Operation
  | rd32ScaleFactor
  | rd32RotationAngle
  | rd32ColorFormat
  | wr32Control (v : Word)
  | wr32Status (v : Word)
  | wr32SrcAddr (v : Word)
  | wr32DstAddr (v : Word)
  | wr32Width (v : Word)
  | wr32Height (v : Word)
  | wr32Operation (v : Word)
  | wr32ScaleFactor (v : Word)
  | wr32RotationAngle (v : Word)
  | wr32ColorFormat (v : Word)
  | opScale (w h factor : Word)
  | opRotate0 (w h : Word)
  | opRotate90 (w h : Word)
  | opRotate180 (w h : Word)
  | opRotate270 (w h : Word)
  | opRotateGen (w h : Word) (angle : Nat)
  | opRgbToYuv (w h : Word)
  | opYuvToRgb (w h : Word)
  | complete
deriving DecidableEq, Repr

/-- What an instruction is decoded from: a bus transaction (rule R61), the descriptor in the controller (rules R65,
R140), or the completion event, which has no bits (rule R74). -/
inductive Code where
  | transaction (t : Transaction)
  | operation (d : Descriptor)
  | completion
deriving DecidableEq, Repr

/-- What the decoder answers: an instruction, a protocol violation by name (rule R171), or a descriptor whose operation
code is outside the known set (rule R65). -/
inductive Decoded where
  | instr (i : Instr)
  | violation (r : FatalReason)
  | unknownOperation
deriving DecidableEq, Repr

end Sys2Proof
end

