-- ==== Sys2Proof/WellFormed.lean ====
section
/-! DEFINITION. The operands an instruction can carry on a device with given parameters. -/

namespace Sys2Proof

/-- A pixel transaction of `n` bytes from `addr` lies in the pixel window (rules R49, R61). -/
abbrev Config.inPixelWindow (c : Config) (addr n : Nat) : Prop :=
  addr < c.frameBufferSize ∧ addr + n ≤ c.frameBufferSize

/-- Well-formed instructions: a pixel transaction stays in its window (rules R80, R81), and a general rotation has a
normalised angle that is no multiple of 90 (rule R140, P4 of rule R147). Every other operand is any 32-bit value. -/
def Instr.wellFormed (c : Config) : Instr → Bool
  | .pixRd addr len => decide (c.inPixelWindow addr len)
  | .pixWr addr data => decide (c.inPixelWindow addr data.length)
  | .opRotateGen _ _ angle => decide (angle < 360 ∧ angle % 90 ≠ 0)
  | .rd32Control | .rd32Status | .rd32SrcAddr | .rd32DstAddr | .rd32Width => true
  | .rd32Height | .rd32Operation | .rd32ScaleFactor | .rd32RotationAngle | .rd32ColorFormat => true
  | .wr32Control _ | .wr32Status _ | .wr32SrcAddr _ | .wr32DstAddr _ | .wr32Width _ => true
  | .wr32Height _ | .wr32Operation _ | .wr32ScaleFactor _ | .wr32RotationAngle _ | .wr32ColorFormat _ => true
  | .opScale _ _ _ | .opRotate0 _ _ | .opRotate90 _ _ | .opRotate180 _ _ | .opRotate270 _ _ => true
  | .opRgbToYuv _ _ | .opYuvToRgb _ _ | .complete => true

end Sys2Proof
end

