-- ==== Sys2Proof/Decode.lean ====
section
/-! DEFINITION. Decoding a transaction (rule R61) and a descriptor (rules R65, R121, R140), total and rejecting by name,
and the encoder written from the same tables. -/

namespace Sys2Proof

/-- `le32` of rule R8: the value of four bytes, the lowest address first (rule R46). -/
def le32 (b0 b1 b2 b3 : Byte) : Word :=
  BitVec.ofNat 32 (b0.toNat + 256 * b1.toNat + 65536 * b2.toNat + 16777216 * b3.toNat)

/-- `bytes_le32` of rule R8, the inverse of `le32`. -/
def bytesLe32 (v : Word) : List Byte :=
  [BitVec.ofNat 8 v.toNat, BitVec.ofNat 8 (v.toNat / 256), BitVec.ofNat 8 (v.toNat / 65536),
    BitVec.ofNat 8 (v.toNat / 16777216)]

/-- The value a register write carries (rule R46). A decoded one has four bytes; any other length gives 0. -/
def wordOfData : List Byte → Word
  | [b0, b1, b2, b3] => le32 b0 b1 b2 b3
  | _ => 0

/-- The offset of a register in the control window (rule R62). -/
def Reg.offset : Reg → Nat
  | .control => 0x00
  | .status => 0x04
  | .srcAddr => 0x08
  | .dstAddr => 0x0c
  | .width => 0x10
  | .height => 0x14
  | .operation => 0x18
  | .scaleFactor => 0x1c
  | .rotationAngle => 0x20
  | .colorFormat => 0x24

/-- The register at an offset of the control window, if any (rules R61, R62). -/
def Reg.ofOffset : Nat → Option Reg
  | 0x00 => some .control
  | 0x04 => some .status
  | 0x08 => some .srcAddr
  | 0x0c => some .dstAddr
  | 0x10 => some .width
  | 0x14 => some .height
  | 0x18 => some .operation
  | 0x1c => some .scaleFactor
  | 0x20 => some .rotationAngle
  | 0x24 => some .colorFormat
  | _ => none

/-- The kind `RD32.<reg>` of rule R74. -/
def readInstr : Reg → Instr
  | .control => .rd32Control
  | .status => .rd32Status
  | .srcAddr => .rd32SrcAddr
  | .dstAddr => .rd32DstAddr
  | .width => .rd32Width
  | .height => .rd32Height
  | .operation => .rd32Operation
  | .scaleFactor => .rd32ScaleFactor
  | .rotationAngle => .rd32RotationAngle
  | .colorFormat => .rd32ColorFormat

/-- The kind `WR32.<reg>` of rule R74, with its operand. -/
def writeInstr (v : Word) : Reg → Instr
  | .control => .wr32Control v
  | .status => .wr32Status v
  | .srcAddr => .wr32SrcAddr v
  | .dstAddr => .wr32DstAddr v
  | .width => .wr32Width v
  | .height => .wr32Height v
  | .operation => .wr32Operation v
  | .scaleFactor => .wr32ScaleFactor v
  | .rotationAngle => .wr32RotationAngle v
  | .colorFormat => .wr32ColorFormat v

/-- The address of a transaction (rule R60). -/
def Transaction.addr : Transaction → Nat
  | .read addr _ => addr
  | .write addr _ => addr

/-- The length of a transaction (rule R60). -/
def Transaction.length : Transaction → Nat
  | .read _ len => len
  | .write _ data => data.length

/-- The transaction `t` at the address `addr` instead of its own. -/
def Transaction.atAddress (addr : Nat) : Transaction → Transaction
  | .read _ len => .read addr len
  | .write _ data => .write addr data

/-- The device-local transaction that the dispatcher makes of one at a global address, by subtracting `DEVICE_BASE` (rule
R6). An address below `DEVICE_BASE` is none of the device's (log entry 22). -/
def Transaction.deviceLocal (c : Config) (t : Transaction) : Option Transaction :=
  if c.deviceBase ≤ t.addr then some (t.atAddress (t.addr - c.deviceBase)) else none

/-- The register transaction at register `r`. -/
def Transaction.onRegister (r : Reg) : Transaction → Instr
  | .read _ _ => readInstr r
  | .write _ data => writeInstr (wordOfData data) r

/-- The pixel transaction, its operands as the transaction carries them. -/
def Transaction.onPixels : Transaction → Instr
  | .read addr len => .pixRd addr len
  | .write addr data => .pixWr addr data

/-- Decoding a transaction, in the order of rule R61: the first matching line decides. -/
def decodeTransaction (c : Config) (t : Transaction) : Decoded :=
  if c.controlBase ≤ t.addr then
    if t.length ≠ 4 then .violation .partialRegisterAccess
    else match Reg.ofOffset (t.addr - c.controlBase) with
      | some r => .instr (t.onRegister r)
      | none => .violation .unmappedControlAddress
  else if t.addr < c.frameBufferSize then
    if c.frameBufferSize < t.addr + t.length then .violation .pixelWindowOverrun
    else .instr t.onPixels
  else .violation .unmappedAddress

/-- `an = a mod 360` with `a = sext_32(rotation_angle)`, the floor modulus (rules R68, R140). -/
def normalAngle (v : Word) : Nat := (v.toInt % 360).toNat

/-- The path a normalised angle selects (rule R140). -/
def rotationPath (an : Nat) : Operation :=
  if an = 0 then .rotate0
  else if an = 90 then .rotate90
  else if an = 180 then .rotate180
  else if an = 270 then .rotate270
  else .rotateGen an

/-- The operation a descriptor selects: the whole code is compared (rule R65), and a rotation goes by its angle
(rule R140). None for a code outside the known set. -/
def selectOperation (c : Config) (d : Descriptor) : Option Operation :=
  if d.operation = c.opScale then some (.scale d.scaleFactor)
  else if d.operation = c.opRotate then some (rotationPath (normalAngle d.rotationAngle))
  else if d.operation = c.opRgbToYuv then some .rgbToYuv
  else if d.operation = c.opYuvToRgb then some .yuvToRgb
  else none

/-- The row of the table that an operation on a `w` by `h` image is. -/
def Operation.toInstr (w h : Word) : Operation → Instr
  | .scale factor => .opScale w h factor
  | .rotate0 => .opRotate0 w h
  | .rotate90 => .opRotate90 w h
  | .rotate180 => .opRotate180 w h
  | .rotate270 => .opRotate270 w h
  | .rotateGen angle => .opRotateGen w h angle
  | .rgbToYuv => .opRgbToYuv w h
  | .yuvToRgb => .opYuvToRgb w h

/-- Decoding any code. -/
def decode (c : Config) : Code → Decoded
  | .transaction t => decodeTransaction c t
  | .operation d =>
    match selectOperation c d with
    | some op => .instr (op.toInstr d.width d.height)
    | none => .unknownOperation
  | .completion => .instr .complete

/-- The transaction `RD32 <reg>` (rule R74). -/
def encodeRead (c : Config) (r : Reg) : Code := .transaction (.read (c.controlBase + r.offset) 4)

/-- The transaction `WR32 <reg>, <v>` (rule R74). -/
def encodeWrite (c : Config) (r : Reg) (v : Word) : Code :=
  .transaction (.write (c.controlBase + r.offset) (bytesLe32 v))

/-- A descriptor of operation `code` with every field the operation does not read zero. -/
def encodeOperation (code w h : Word) (factor angle : Word := 0) : Code :=
  .operation
    { operation := code, width := w, height := h, scaleFactor := factor, rotationAngle := angle, colorFormat := 0 }

/-- The encoder: the code of an instruction, by the notation of rule R74 and the operation codes of rule R65. -/
def encode (c : Config) : Instr → Code
  | .pixRd addr len => .transaction (.read addr len)
  | .pixWr addr data => .transaction (.write addr data)
  | .rd32Control => encodeRead c .control
  | .rd32Status => encodeRead c .status
  | .rd32SrcAddr => encodeRead c .srcAddr
  | .rd32DstAddr => encodeRead c .dstAddr
  | .rd32Width => encodeRead c .width
  | .rd32Height => encodeRead c .height
  | .rd32Operation => encodeRead c .operation
  | .rd32ScaleFactor => encodeRead c .scaleFactor
  | .rd32RotationAngle => encodeRead c .rotationAngle
  | .rd32ColorFormat => encodeRead c .colorFormat
  | .wr32Control v => encodeWrite c .control v
  | .wr32Status v => encodeWrite c .status v
  | .wr32SrcAddr v => encodeWrite c .srcAddr v
  | .wr32DstAddr v => encodeWrite c .dstAddr v
  | .wr32Width v => encodeWrite c .width v
  | .wr32Height v => encodeWrite c .height v
  | .wr32Operation v => encodeWrite c .operation v
  | .wr32ScaleFactor v => encodeWrite c .scaleFactor v
  | .wr32RotationAngle v => encodeWrite c .rotationAngle v
  | .wr32ColorFormat v => encodeWrite c .colorFormat v
  | .opScale w h factor => encodeOperation c.opScale w h (factor := factor)
  | .opRotate0 w h => encodeOperation c.opRotate w h (angle := 0)
  | .opRotate90 w h => encodeOperation c.opRotate w h (angle := 90)
  | .opRotate180 w h => encodeOperation c.opRotate w h (angle := 180)
  | .opRotate270 w h => encodeOperation c.opRotate w h (angle := 270)
  | .opRotateGen w h angle => encodeOperation c.opRotate w h (angle := BitVec.ofNat 32 angle)
  | .opRgbToYuv w h => encodeOperation c.opRgbToYuv w h
  | .opYuvToRgb w h => encodeOperation c.opYuvToRgb w h
  | .complete => .completion

/-- The code that a word of spec/opcode_table.json stands for (log entry 20).
DESIGN CHOICE: the table's bits give the address of a transaction or the operation code of a descriptor, and leave out the
direction, the length, the data and the angle. A word equal to an operation code is a descriptor whose other fields are 0;
any other word is the address of a 4-byte READ. No bits at all is the completion event. -/
def tableCode (c : Config) (nbits w : Nat) : Code :=
  if nbits = 0 then .completion
  else if w < 4294967296 ∧ (BitVec.ofNat 32 w = c.opScale ∨ BitVec.ofNat 32 w = c.opRotate ∨
      BitVec.ofNat 32 w = c.opRgbToYuv ∨ BitVec.ofNat 32 w = c.opYuvToRgb) then
    encodeOperation (BitVec.ofNat 32 w) 0 0
  else .transaction (.read w 4)

/-- The instruction the decoder reads from a word of spec/opcode_table.json, on the standard device. -/
def decodeTableWord (nbits w : Nat) : Option Instr :=
  match decode Config.standard (tableCode Config.standard nbits w) with
  | .instr i => some i
  | .violation _ => none
  | .unknownOperation => none

end Sys2Proof
end

