-- ==== Sys2Proof/Machine/State.lean ====
section
/-! DEFINITION. The state of one device (rule R10), its reset (rule R32), and the ways a step can stop. -/

namespace Sys2Proof.Machine

/-- The register file: ten 32-bit registers (rules R11 to R20). -/
structure RegFile where
  control : Word
  status : Word
  srcAddr : Word
  dstAddr : Word
  width : Word
  height : Word
  operation : Word
  scaleFactor : Word
  rotationAngle : Word
  colorFormat : Word
deriving DecidableEq, Repr

/-- A frame buffer as a list of (index, byte) pairs. An index that is not listed reads as 0 (log entry 4). -/
abbrev Memory := List Host.Cell

/-- The canonical form: indexes strictly rising, and no entry equal to what an unlisted index reads as. -/
def Memory.wf : Memory → Bool
  | [] => true
  | [(_, v)] => decide (v ≠ 0)
  | (a, v) :: (b, w) :: rest => decide (v ≠ 0) && decide (a < b) && Memory.wf ((b, w) :: rest)

/-- Every listed index is below `n`. -/
def Memory.within (n : Nat) (m : Memory) : Bool := m.all fun cell => decide (cell.1 < n)

/-- The controller states of rules R24 and R110. -/
inductive CtrlState where
  | idle
  | armed
  | processing
  | done
  | error
deriving DecidableEq, Repr

/-- What the environment does next (rule R5).
`bus`: the master side delivers a transaction.
`complete`: the kernel lets the controller take its step, which is COMPLETE, BEGIN or FINISH (rules R74, R124).
`advance n`: simulated time passes by `n` whole units (rule R29, log entry 27). -/
inductive Event where
  | bus (t : Transaction)
  | complete
  | advance (n : Nat)
deriving DecidableEq, Repr

/-- The state of one device and of what acts on it.
The fields from `regs` to `fatal` are the tuple of rule R10, in its order (`ctrl` is its `state`).
`cfg`, `now`, `events` and `reply` are the model's own: the construction parameters (rule R6), the kernel's clock
(rule R29), the environment's next actions (rule R5), and the data the last transaction answered (rule R60).
Time points and delays (`now`, `pending`, `cfg.processingDelay`, `Event.advance`) are natural numbers: rule R26 says "a
point of simulated time" and does not say that time is counted in whole units (DESIGN CHOICE, log entry 27). -/
structure State where
  regs : RegFile
  input : Memory
  output : Memory
  outW : Nat
  outH : Nat
  ctrl : CtrlState
  desc : Option Descriptor
  pending : Option Nat
  irqLog : List Nat
  fatal : Option FatalReason
  cfg : Config
  now : Nat
  events : List Event
  reply : Option (List Byte)
deriving DecidableEq, Repr

/-- Why the machine stops with a fault. -/
inductive Fault where
  /-- Raised by the step after a protocol violation: `fatal` is set, so no step is enabled (rule R172). Safe: the device
  stops there too. -/
  | stopped (r : FatalReason)
deriving DecidableEq, Repr

/-- Why the model gives a situation no meaning. -/
inductive Refusal where
  /-- Raised by `exec` for an instruction with no meaning yet. Safe: nothing is claimed of it. -/
  | notModelled (mnemonic : String)
  /-- Raised by the step on parameters that violate rule R6 or R7, as rule R7 says. Safe: no such device exists. -/
  | illegalConfiguration
  /-- Raised by `PIX_WR` during PROCESSING, as rule R81 says (U9). Safe: nothing is claimed of what the transform sees. -/
  | pixelWriteDuringProcessing
deriving DecidableEq, Repr

/-- The open parameters `RESET_*` of rule R32. -/
structure ResetValues where
  srcAddr : Word
  dstAddr : Word
  width : Word
  height : Word
  operation : Word
  scaleFactor : Word
  rotationAngle : Word
  colorFormat : Word
  input : Memory
  output : Memory
  outW : Nat
  outH : Nat
deriving DecidableEq, Repr

/-- The constraints of rule R32 on the open reset values. -/
abbrev ResetValues.Legal (c : Config) (r : ResetValues) : Prop :=
  r.width.toNat ≤ c.maxWidth ∧ r.height.toNat ≤ c.maxHeight ∧
  (1 ≤ r.scaleFactor.toNat ∧ r.scaleFactor.toNat ≤ c.scaleMax) ∧
  (-(c.angleLimit : Int) < r.rotationAngle.toInt ∧ r.rotationAngle.toInt < c.angleLimit) ∧
  (r.input.wf ∧ r.input.within c.frameBufferSize) ∧ (r.output.wf ∧ r.output.within c.frameBufferSize) ∧
  r.outW * r.outH * c.channels ≤ c.frameBufferSize

/-- The suggested values of rule R32. -/
def ResetValues.suggested : ResetValues where
  srcAddr := 0
  dstAddr := 0
  width := 0
  height := 0
  operation := 0
  scaleFactor := 100
  rotationAngle := 0
  colorFormat := 0
  input := []
  output := []
  outW := 0
  outH := 0

/-- A device after construction (rules R32, R190), for given parameters and open reset values.
`now` starts at 0, which is the model's choice: rule R29 gives time to the kernel, rule R118 says that it does not
decrease, and no rule gives it a value at construction (DESIGN CHOICE, log entry 26). -/
def State.construct (c : Config) (r : ResetValues) : State where
  regs :=
    { control := 0, status := 0, srcAddr := r.srcAddr, dstAddr := r.dstAddr, width := r.width, height := r.height,
      operation := r.operation, scaleFactor := r.scaleFactor, rotationAngle := r.rotationAngle,
      colorFormat := r.colorFormat }
  input := r.input
  output := r.output
  outW := r.outW
  outH := r.outH
  ctrl := .idle
  desc := none
  pending := none
  irqLog := []
  fatal := none
  cfg := c
  now := 0
  events := []
  reply := none

/-- The device right after reset: the standard parameters and the suggested reset values (log entries 2 and 3). -/
def State.reset : State := State.construct Config.standard ResetValues.suggested

end Sys2Proof.Machine
end

