-- ==== Sys2Proof/Machine/Operands.lean ====
section
/-! DEFINITION. The operand forms: access to the register file, the values each register accepts, and the layout of an
image in a buffer. -/

namespace Sys2Proof.Machine

/-- `reg[r]` (rule R8). -/
def RegFile.get (f : RegFile) : Reg → Word
  | .control => f.control
  | .status => f.status
  | .srcAddr => f.srcAddr
  | .dstAddr => f.dstAddr
  | .width => f.width
  | .height => f.height
  | .operation => f.operation
  | .scaleFactor => f.scaleFactor
  | .rotationAngle => f.rotationAngle
  | .colorFormat => f.colorFormat

/-- `reg[r] <- v` (rule R8). -/
def RegFile.set (f : RegFile) (v : Word) : Reg → RegFile
  | .control => { f with control := v }
  | .status => { f with status := v }
  | .srcAddr => { f with srcAddr := v }
  | .dstAddr => { f with dstAddr := v }
  | .width => { f with width := v }
  | .height => { f with height := v }
  | .operation => { f with operation := v }
  | .scaleFactor => { f with scaleFactor := v }
  | .rotationAngle => { f with rotationAngle := v }
  | .colorFormat => { f with colorFormat := v }

/-- The values a bus write to each register commits (rules R92 to R101, R173). A write of any other value is rejected. -/
def accepts (c : Config) (v : Word) : Reg → Bool
  | .control => true
  | .status => false
  | .srcAddr => true
  | .dstAddr => true
  | .width => decide (v.toNat ≤ c.maxWidth)
  | .height => decide (v.toNat ≤ c.maxHeight)
  | .operation => true
  | .scaleFactor => decide (1 ≤ v.toNat ∧ v.toNat ≤ c.scaleMax)
  | .rotationAngle => decide (-(c.angleLimit : Int) < v.toInt ∧ v.toInt < c.angleLimit)
  | .colorFormat => true

/-- The descriptor snapshot of rule R117. -/
def RegFile.snapshot (f : RegFile) : Descriptor where
  operation := f.operation
  width := f.width
  height := f.height
  scaleFactor := f.scaleFactor
  rotationAngle := f.rotationAngle
  colorFormat := f.colorFormat

/-- The byte of channel `c` of pixel `(x, y)` in an image of width `w` with `ch` bytes a pixel (rule R8, images). -/
def pixelIndex (ch w x y c : Nat) : Nat := (y * w + x) * ch + c

/-- That byte of an image held as a list. -/
def pixelByte (img : List Byte) (ch w x y c : Nat) : Byte := img.getD (pixelIndex ch w x y c) 0

/-- The bytes of a `w` by `h` image whose channel `c` of pixel `(x, y)` is `f x y c`: byte `k` is channel `k mod ch` of
pixel `k div ch` in row-major order (rule R8, images). -/
def layOut (ch w h : Nat) (f : Nat → Nat → Nat → Byte) : List Byte :=
  (List.range (w * h * ch)).map fun k => f (k / ch % w) (k / ch / w) (k % ch)

end Sys2Proof.Machine
end

