-- ==== Sys2Proof/Machine/ColorSpace.lean ====
section
/-! DEFINITION. The colour-space conversions (rules R160 to R165), in the integer forms the rules give. -/

namespace Sys2Proof.Machine

/-- `Y` of rule R161. -/
def lumaOf (r g b : Byte) : Byte := BitVec.ofNat 8 ((299 * r.toNat + 587 * g.toNat + 114 * b.toNat) / 1000)

/-- `U` of rule R161. -/
def chromaUOf (r g b : Byte) : Byte :=
  BitVec.ofInt 8 ((-169 * (r.toNat : Int) - 331 * g.toNat + 500 * b.toNat + 128000) / 1000)

/-- `V` of rule R161. -/
def chromaVOf (r g b : Byte) : Byte :=
  BitVec.ofInt 8 ((500 * (r.toNat : Int) - 419 * g.toNat - 81 * b.toNat + 128000) / 1000)

/-- `X` of the integer form of rule R162: `n / 10000` clamped to a byte and truncated. -/
def clampTenThousandths (n : Int) : Byte :=
  if n < 0 then 0 else if 2550000 ≤ n then 255 else BitVec.ofInt 8 (n / 10000)

/-- `R` of rule R162. -/
def redOf (y v : Byte) : Byte := clampTenThousandths (10000 * (y.toNat : Int) + 14075 * ((v.toNat : Int) - 128))

/-- `G` of rule R162. -/
def greenOf (y u v : Byte) : Byte :=
  clampTenThousandths (10000 * (y.toNat : Int) - 3455 * ((u.toNat : Int) - 128) - 7169 * ((v.toNat : Int) - 128))

/-- `B` of rule R162. -/
def blueOf (y u : Byte) : Byte := clampTenThousandths (10000 * (y.toNat : Int) + 17790 * ((u.toNat : Int) - 128))

/-- Channel `ch` of the YUV pixel of an RGB pixel, in the byte order of rule R160. -/
def yuvChannel (r g b : Byte) : Nat → Byte
  | 0 => lumaOf r g b
  | 1 => chromaUOf r g b
  | _ => chromaVOf r g b

/-- Channel `ch` of the RGB pixel of a YUV pixel, in the byte order of rule R160. -/
def rgbChannel (y u v : Byte) : Nat → Byte
  | 0 => redOf y v
  | 1 => greenOf y u v
  | _ => blueOf y u

/-- RGB to YUV, pixel by pixel (rule R161). -/
def rgbToYuvBytes (w h : Nat) (img : List Byte) : List Byte :=
  layOut 3 w h fun x y ch =>
    yuvChannel (pixelByte img 3 w x y 0) (pixelByte img 3 w x y 1) (pixelByte img 3 w x y 2) ch

/-- YUV to RGB, pixel by pixel (rule R162). -/
def yuvToRgbBytes (w h : Nat) (img : List Byte) : List Byte :=
  layOut 3 w h fun x y ch =>
    rgbChannel (pixelByte img 3 w x y 0) (pixelByte img 3 w x y 1) (pixelByte img 3 w x y 2) ch

end Sys2Proof.Machine
end

