-- ==== Sys2Proof/Machine/Flags.lean ====
section
/-! DEFINITION. The bits of `control` (rule R63) and `status` (rule R64). -/

namespace Sys2Proof.Machine

/-- The word with only bit `k` set. -/
def bit (k : Nat) : Word := 1#32 <<< k

/-- `CONTROL_MASK`: the OR of the three defined bits of `control` (rule R63). -/
def controlMask (c : Config) : Word := bit c.ctrlEnableBit ||| bit c.ctrlIrqEnableBit ||| bit c.ctrlStartBit

/-- `control.ENABLE` (rule R11). -/
def enableOf (c : Config) (control : Word) : Bool := control.getLsbD c.ctrlEnableBit

/-- `control.IRQ_ENABLE` (rule R11). -/
def irqEnableOf (c : Config) (control : Word) : Bool := control.getLsbD c.ctrlIrqEnableBit

/-- `control.START` (rule R11), and the trigger predicate `TRIG` of rule R111. -/
def startOf (c : Config) (control : Word) : Bool := control.getLsbD c.ctrlStartBit

/-- `control` with `START` cleared (rule R119). -/
def clearStart (c : Config) (control : Word) : Word := control &&& ~~~ bit c.ctrlStartBit

/-- The value of `status` in each controller state: only the bit named by the state is set (rules R30 (c), R119). -/
def statusOf (c : Config) : CtrlState → Word
  | .idle => 0
  | .armed => 0
  | .processing => bit c.statBusyBit
  | .done => bit c.statDoneBit
  | .error => bit c.statErrorBit

/-- `status.BUSY` (rule R12). -/
def busyOf (c : Config) (status : Word) : Bool := status.getLsbD c.statBusyBit

/-- `status.DONE` (rule R12). -/
def doneOf (c : Config) (status : Word) : Bool := status.getLsbD c.statDoneBit

/-- `status.ERROR` (rule R12). -/
def errorOf (c : Config) (status : Word) : Bool := status.getLsbD c.statErrorBit

end Sys2Proof.Machine
end

