-- ==== Sys2Proof/Machine/Ops.lean ====
section
/-! DEFINITION. The named operations over the frame buffers, the registers and the controller that the meanings share.
The exceptions of this device are a protocol violation (`takeViolation`, rule R172) and a runtime transform fault
(`finishWith` on an error, rule R174), and the next trigger write is the return from the latter (`arm`, rule R179). -/

namespace Sys2Proof.Machine

/-! ### Frame buffers -/

/-- `buf[i]`. An index that is not listed reads as 0. -/
def Memory.read : Memory → Nat → Byte
  | [], _ => 0
  | (a, v) :: rest, i => if i = a then v else Memory.read rest i

/-- `buf[i] <- v`, keeping the canonical form. -/
def Memory.write : Memory → Nat → Byte → Memory
  | [], i, v => if v = 0 then [] else [(i, v)]
  | (a, w) :: rest, i, v =>
    if i < a then (if v = 0 then (a, w) :: rest else (i, v) :: (a, w) :: rest)
    else if i = a then (if v = 0 then rest else (i, v) :: rest)
    else (a, w) :: Memory.write rest i v

/-- `MemRead(buf, addr, n)` of rule R8. -/
def Memory.readBytes (m : Memory) (addr n : Nat) : List Byte := (List.range n).map fun k => m.read (addr + k)

/-- `MemWrite(buf, addr, n, bytes)` of rule R8. -/
def Memory.writeBytes (m : Memory) (addr : Nat) : List Byte → Memory
  | [] => m
  | v :: rest => Memory.writeBytes (m.write addr v) (addr + 1) rest

/-- The buffer that holds `bytes` from index `i` on and is zero elsewhere. -/
def Memory.ofBytesFrom (i : Nat) : List Byte → Memory
  | [] => []
  | v :: rest => if v = 0 then Memory.ofBytesFrom (i + 1) rest else (i, v) :: Memory.ofBytesFrom (i + 1) rest

/-- The buffer that holds `bytes` from index 0 on and is zero elsewhere. -/
def Memory.ofBytes (bytes : List Byte) : Memory := Memory.ofBytesFrom 0 bytes

/-! ### The bus side -/

/-- A transaction completes and answers `data`, which is empty for a WRITE (rule R60). -/
def answer (data : List Byte) (s : State) : State := { s with reply := some data }

/-- `RD32.r`: answer the bytes of `reg[r]` and change nothing else (rules R71, R82 to R91). -/
def readRegister (r : Reg) (s : State) : State := answer (bytesLe32 (s.regs.get r)) s

/-- `WR32.r` for every register but `control`: commit an accepted value, drop any other; the transaction completes in
both cases (rules R93 to R101, R173). -/
def writeRegister (r : Reg) (v : Word) (s : State) : State :=
  answer [] { s with regs := if accepts s.cfg v r then s.regs.set v r else s.regs }

/-- Taking a protocol violation: `fatal` records the reason, nothing else of the device changes, and no data is returned
(rule R172). -/
def takeViolation (r : FatalReason) (s : State) : State := { s with fatal := some r, reply := none }

/-! ### The controller -/

/-- The effect of a trigger write after the register is stored: status cleared, descriptor taken, completion scheduled
(rules R92, R112, R117). -/
def arm (s : State) : State :=
  { s with
    regs := { s.regs with status := 0 }
    desc := some s.regs.snapshot
    pending := some (s.now + s.cfg.processingDelay)
    ctrl := .armed }

/-- Cancelling what is scheduled: no completion is pending, and an armed operation is discarded (rules R92, R114). -/
def cancel (s : State) : State :=
  match s.ctrl with
  | .armed => { s with pending := none, ctrl := .idle, desc := none }
  | .idle => { s with pending := none }
  | .processing => { s with pending := none }
  | .done => { s with pending := none }
  | .error => { s with pending := none }

/-- A write of `v` to `control` (rule R92). -/
def writeControl (v : Word) (s : State) : State :=
  if s.ctrl = .processing then s
  else
    let stored := { cancel s with regs := { s.regs with control := v &&& controlMask s.cfg } }
    if startOf s.cfg (v &&& controlMask s.cfg) then arm stored else stored

/-- The begin part of the completion event, BEGIN of the split profile (rules R119, R124). -/
def beginProcessing (s : State) : State :=
  { s with
    pending := none
    regs := { s.regs with control := clearStart s.cfg s.regs.control, status := statusOf s.cfg .processing }
    ctrl := .processing }

/-- An image the Transform Engine returns: its dimensions and its bytes. -/
structure Image where
  w : Nat
  h : Nat
  bytes : List Byte
deriving DecidableEq, Repr

/-- The reasons of a runtime transform fault that can occur (rules R120, R174). -/
inductive RunError where
  | zeroDimension
  | unknownOperation
  | channelMismatch
  | outputTooLarge
deriving DecidableEq, Repr

/-- What `Run` of rule R120 returns. -/
inductive RunResult where
  | ok (img : Image)
  | err (e : RunError)
deriving DecidableEq, Repr

/-- `Commit` of rule R122: the image from byte 0 of `output`, the rest of `output` zero. -/
def commit (img : Image) (s : State) : State :=
  { s with output := Memory.ofBytes img.bytes, outW := img.w, outH := img.h }

/-- The operation ends in controller state `c`: `status` has that state's bit alone, and the descriptor is dropped
(rules R119, R123). -/
def settle (c : CtrlState) (s : State) : State :=
  { s with regs := { s.regs with status := statusOf s.cfg c }, ctrl := c, desc := none }

/-- One interrupt request if `control.IRQ_ENABLE` is set now (rules R123, R175). -/
def raiseInterrupt (s : State) : State :=
  { s with irqLog := if irqEnableOf s.cfg s.regs.control then s.irqLog ++ [s.cfg.irqNumber] else s.irqLog }

/-- The finish part of the completion event (rules R119, R123). A runtime transform fault is an error result: ERROR,
with `output` as it was, and the interrupt as on success (rules R174, R176). -/
def finishWith (r : RunResult) (s : State) : State :=
  match r with
  | .ok img => raiseInterrupt (settle .done (commit img s))
  | .err _ => raiseInterrupt (settle .error s)

end Sys2Proof.Machine
end

