-- ==== Sys2Proof/Machine/Trig.lean ====
section
/-! DEFINITION. Exact decisions about `cos` and `sin` of a whole number of degrees, for the ideal general rotation of
rules R145 and R146, which are stated over the real numbers.

Every real number those rules round down has the form `(a * cos an + b * sin an + c) / 2` with whole `a`, `b`, `c`.
`floorTrig` computes its floor from values of `cos` and `sin` whose error is below 2^-2040. DEDUCED (log entry 6): for
`a`, `b`, `c` below 2^38 in size the answer is the exact one. Four times the difference of such a number and a whole
number next to it is an algebraic integer of the real subfield of the 360th cyclotomic field, whose degree is 48, and
each of its conjugates is below 2^42. So if it is not 0 it is above 2^-1974, which is 2^73 in the units of the numerator.
The guard 2^60 is below that, and above the error of the numerator, which is below 2^48. -/

namespace Sys2Proof.Machine

/-- The number of fraction bits of the values below. -/
def trigBits : Nat := 2048

/-- `cos 1°`, rounded to `trigBits` fraction bits. -/
def cosOneDegree : Nat :=
  0xfff604bfad7c4dced7400ffcbd509d40915d111e1c04be7896c1d33481e368fdc3902e1e2cf39abefe72725482003a515ea30111e38a3114c7f4b8ab17db4343925e1806bc8bf06a5dd55f66edb11478d157942672d75fbc0aca6e2a4ca6cade2d6bdbd116c6957e44aa1655b26cc5009703617140c005c428ea19baa49ac73014b5b416bb48c0eb278b7b48fe9949373efae353c4527ab7914e029b087621299bd69f04bdcd24cbee763f3d5db9e71880974076dbb5fa3bd5864b6fa0fcdd6fe30af57c12a87d0c2990b89e0cf161fce88e980ca305f11b99b2b18c844639b50800550c058e75488bb9d2cc3abba4b13f32080d3e1bc1d9eab0a44a03b7e1b2

/-- `sin 1°`, rounded to `trigBits` fraction bits. -/
def sinOneDegree : Nat :=
  0x477c2cae2774795834d6814878796f3b8fd3f23b0a2596d141eb9b4dc0c572200fa179fa4db3ac2cea5f685417f2a330fafdd5f5fc79f28a7f959bd09e9a3afeb89dc7a69a2cc48adb6620aec000f72160e8482c3753a3b26ccc3af272f41b740bd2157f534e323e155a8758b4b1805724bb03f6aa5dd12bd6fc5a3beb9546dac0d41880aa7c1d3558436b78d883a902e7542ad159ce7c9fa4b37f9d6d53285777cc5cf9208a8da1067ecf22ffd0db1b2dac9ec53890de7991772862b07103b4088f5fc5bcd5777ea461c53d994e879f92be921ae23e41e1ab49eaa84b047e49448f8dfe91ada15729198b8e31284e5e1ea6202d460371f06fe65b1ea1bbb7d

/-- A number with `2 * trigBits` fraction bits, rounded to `trigBits`. -/
def roundBits (v : Nat) : Nat := (v + 2 ^ (trigBits - 1)) / 2 ^ trigBits

/-- `(cos n°, sin n°)` for `n` up to 89, by turning one degree at a time. -/
def quarterTurn : Nat → Nat × Nat
  | 0 => (2 ^ trigBits, 0)
  | n + 1 =>
    let (c, s) := quarterTurn n
    (roundBits (c * cosOneDegree - s * sinOneDegree), roundBits (s * cosOneDegree + c * sinOneDegree))

/-- `(cos an°, sin an°)` for `an` below 360. -/
def cosSin (an : Nat) : Int × Int :=
  let (c, s) := quarterTurn (an % 90)
  match an / 90 with
  | 0 => ((c : Int), (s : Int))
  | 1 => (-(s : Int), (c : Int))
  | 2 => (-(c : Int), -(s : Int))
  | _ => ((s : Int), -(c : Int))

/-- The floor of `(a * cos + b * sin + c) / 2` for values `cs` of `cos` and `sin`. -/
def floorTrig (cs : Int × Int) (a b c : Int) : Int :=
  (a * cs.1 + b * cs.2 + c * 2 ^ trigBits + 2 ^ 60) / 2 ^ (trigBits + 1)

end Sys2Proof.Machine
end

