-- ==== Sys2Proof/Machine/Rotate.lean ====
section
/-! DEFINITION. The rotations (rules R140 to R149). Each path gives, for a destination pixel, the input pixel it copies;
rules R142 to R144 state the inverse of that map. -/

namespace Sys2Proof.Machine

/-- No turn (rule R141). -/
def rotate0Bytes (c : Config) (w h : Nat) (img : List Byte) : List Byte :=
  layOut c.channels w h fun x y ch => pixelByte img c.channels w x y ch

/-- A quarter turn clockwise (rule R142): `out(h-1-y, x) <- in(x, y)`. -/
def rotate90Bytes (c : Config) (w h : Nat) (img : List Byte) : List Byte :=
  layOut c.channels h w fun x y ch => pixelByte img c.channels w y (h - 1 - x) ch

/-- A half turn (rule R143): `out(w-1-x, h-1-y) <- in(x, y)`. -/
def rotate180Bytes (c : Config) (w h : Nat) (img : List Byte) : List Byte :=
  layOut c.channels w h fun x y ch => pixelByte img c.channels w (w - 1 - x) (h - 1 - y) ch

/-- A quarter turn counter-clockwise (rule R144): `out(y, w-1-x) <- in(x, y)`. -/
def rotate270Bytes (c : Config) (w h : Nat) (img : List Byte) : List Byte :=
  layOut c.channels h w fun x y ch => pixelByte img c.channels w (w - 1 - y) x ch

/-- The canvas of the ideal general rotation (rule R145). -/
def idealCanvas (c : Config) (w h an : Nat) : Nat × Nat :=
  let cs := cosSin an
  let magnitudes := ((cs.1.natAbs : Int), (cs.2.natAbs : Int))
  ((floorTrig magnitudes (2 * w) (2 * h) 1).toNat + c.rotMargin,
    (floorTrig magnitudes (2 * h) (2 * w) 1).toNat + c.rotMargin)

/-- The input pixel that the ideal general rotation copies to `(x, y)` of an `ow` by `oh` canvas, or none outside the
image (rule R146). The bounds test on a real coordinate is the test on its floor, since the bounds are whole. -/
def idealSource (w h an ow oh x y : Nat) : Option (Nat × Nat) :=
  let cs := cosSin an
  let dx : Int := 2 * x - ow
  let dy : Int := 2 * y - oh
  let xs := floorTrig cs dx dy w
  let ys := floorTrig cs dy (-dx) h
  if 0 ≤ xs ∧ xs < w ∧ 0 ≤ ys ∧ ys < h then some (xs.toNat, ys.toNat) else none

/-- The canvas of the general rotation (rules R145, R147). -/
def generalCanvas (c : Config) (w h an : Nat) : Nat × Nat :=
  match c.rotProfile with
  | .ideal => idealCanvas c w h an
  | .parameter => Config.rotCanvas w h an c.channels

/-- The input pixel that the general rotation copies to `(x, y)`, or none for `FILL` (rules R146, R147). -/
def generalSource (c : Config) (w h an : Nat) (img : List Byte) (x y : Nat) : Option (Nat × Nat) :=
  match c.rotProfile with
  | .ideal => idealSource w h an (generalCanvas c w h an).1 (generalCanvas c w h an).2 x y
  | .parameter => Config.rotSource w h an c.channels img x y

/-- The general rotation: every pixel is a copy of an input pixel or `FILL` in every channel (P3 of rule R147). -/
def rotateGenBytes (c : Config) (w h an : Nat) (img : List Byte) : List Byte :=
  layOut c.channels (generalCanvas c w h an).1 (generalCanvas c w h an).2 fun x y ch =>
    match generalSource c w h an img x y with
    | some (sx, sy) => if sx < w ∧ sy < h then pixelByte img c.channels w sx sy ch else c.fill
    | none => c.fill

end Sys2Proof.Machine
end

