-- ==== Sys2Proof/Machine/Scale.lean ====
section
/-! DEFINITION. The nearest-neighbour scale (rules R130 to R134). -/

namespace Sys2Proof.Machine

/-- `round(n * f)` with `f = s / SCALE_ONE`, a tie rounding up (rule R130). -/
def scaledSize (c : Config) (n s : Nat) : Nat := (2 * n * s + c.scaleOne) / (2 * c.scaleOne)

/-- `floor(x / f)` with `f = s / SCALE_ONE` (rule R131). -/
def scaleSource (c : Config) (s x : Nat) : Nat := x * c.scaleOne / s

/-- The scaled image (rule R131). A destination pixel whose source is outside the image keeps 0. -/
def scaleBytes (c : Config) (w h s : Nat) (img : List Byte) : List Byte :=
  layOut c.channels (scaledSize c w s) (scaledSize c h s) fun x y ch =>
    if scaleSource c s x < w ∧ scaleSource c s y < h then
      pixelByte img c.channels w (scaleSource c s x) (scaleSource c s y) ch
    else 0

end Sys2Proof.Machine
end

