-- ==== Sys2Proof/Machine/Engine.lean ====
section
/-! DEFINITION. The Transform Engine: `Run` of rule R120, its dispatch (rule R121), and the meanings of the rows
`OP.*`. A row `OP.*` is what the controller runs in PROCESSING: the run and finish parts of the completion event, FINISH
of rule R124. In any other controller state it is no event of rule R110's table, so it does not change the state. -/

namespace Sys2Proof.Machine

/-- The operation converts colours, so it needs three channels (rules R120, R165). -/
def isColour : Operation → Bool
  | .scale _ => false
  | .rotate0 => false
  | .rotate90 => false
  | .rotate180 => false
  | .rotate270 => false
  | .rotateGen _ => false
  | .rgbToYuv => true
  | .yuvToRgb => true

/-- `OutDims` (rule R121). -/
def outDims (c : Config) (w h : Nat) : Operation → Nat × Nat
  | .scale factor => (scaledSize c w factor.toNat, scaledSize c h factor.toNat)
  | .rotate0 => (w, h)
  | .rotate90 => (h, w)
  | .rotate180 => (w, h)
  | .rotate270 => (h, w)
  | .rotateGen angle => generalCanvas c w h angle
  | .rgbToYuv => (w, h)
  | .yuvToRgb => (w, h)

/-- `Transform` (rule R121). -/
def transform (c : Config) (w h : Nat) (img : List Byte) : Operation → List Byte
  | .scale factor => scaleBytes c w h factor.toNat img
  | .rotate0 => rotate0Bytes c w h img
  | .rotate90 => rotate90Bytes c w h img
  | .rotate180 => rotate180Bytes c w h img
  | .rotate270 => rotate270Bytes c w h img
  | .rotateGen angle => rotateGenBytes c w h angle img
  | .rgbToYuv => rgbToYuvBytes w h img
  | .yuvToRgb => yuvToRgbBytes w h img

/-- `Run` of rule R120 for a known operation on a `w` by `h` image. -/
def runOperation (c : Config) (op : Operation) (w h : Nat) (input : Memory) : RunResult :=
  if w = 0 ∨ h = 0 then .err .zeroDimension
  else if isColour op ∧ c.channels ≠ 3 then .err .channelMismatch
  else if c.frameBufferSize < (outDims c w h op).1 * (outDims c w h op).2 * c.channels then .err .outputTooLarge
  else
    .ok
      { w := (outDims c w h op).1
        h := (outDims c w h op).2
        bytes := transform c w h (input.readBytes 0 (w * h * c.channels)) op }

/-- `Run(d, input)` of rule R120. -/
def run (c : Config) (d : Descriptor) (input : Memory) : RunResult :=
  if d.width.toNat = 0 ∨ d.height.toNat = 0 then .err .zeroDimension
  else match selectOperation c d with
    | none => .err .unknownOperation
    | some op => runOperation c op d.width.toNat d.height.toNat input

/-- The run and finish parts of the completion event for an operation (rules R119, R124). -/
def operate (op : Operation) (w h : Word) (s : State) : State :=
  if s.ctrl = .processing then finishWith (runOperation s.cfg op w.toNat h.toNat s.input) s else s

/-- `OP.SCALE` (rules R130, R131). -/
def execOpScale (w h factor : Word) (s : State) : Host.Outcome State Fault Refusal := .next (operate (.scale factor) w h s)

/-- `OP.ROTATE.0` (rule R141). -/
def execOpRotate0 (w h : Word) (s : State) : Host.Outcome State Fault Refusal := .next (operate .rotate0 w h s)

/-- `OP.ROTATE.90` (rule R142). -/
def execOpRotate90 (w h : Word) (s : State) : Host.Outcome State Fault Refusal := .next (operate .rotate90 w h s)

/-- `OP.ROTATE.180` (rule R143). -/
def execOpRotate180 (w h : Word) (s : State) : Host.Outcome State Fault Refusal := .next (operate .rotate180 w h s)

/-- `OP.ROTATE.270` (rule R144). -/
def execOpRotate270 (w h : Word) (s : State) : Host.Outcome State Fault Refusal := .next (operate .rotate270 w h s)

/-- `OP.ROTATE.GEN` (rules R145 to R147). -/
def execOpRotateGen (w h : Word) (angle : Nat) (s : State) : Host.Outcome State Fault Refusal :=
  .next (operate (.rotateGen angle) w h s)

/-- `OP.RGB_TO_YUV` (rule R161). -/
def execOpRgbToYuv (w h : Word) (s : State) : Host.Outcome State Fault Refusal := .next (operate .rgbToYuv w h s)

/-- `OP.YUV_TO_RGB` (rule R162). -/
def execOpYuvToRgb (w h : Word) (s : State) : Host.Outcome State Fault Refusal := .next (operate .yuvToRgb w h s)

end Sys2Proof.Machine
end

