-- ==== Sys2Proof/Machine/Controller.lean ====
section
/-! DEFINITION. The controller's own event, `COMPLETE` (rules R119, R124). -/

namespace Sys2Proof.Machine

/-- The run and finish parts of the completion event, FINISH of the split profile (rules R119, R124). Without a
descriptor there is nothing to run. -/
def finishProcessing (s : State) : State :=
  match s.desc with
  | none => s
  | some d => finishWith (run s.cfg d s.input) s

/-- `COMPLETE`. In ARMED it is the completion event: whole with `PROCESSING_ATOMIC`, else BEGIN. In PROCESSING it is
FINISH. In any other state it is not enabled and does not change the state (rule R110). -/
def execComplete (s : State) : Host.Outcome State Fault Refusal :=
  match s.ctrl with
  | .armed => .next (if s.cfg.processingAtomic then finishProcessing (beginProcessing s) else beginProcessing s)
  | .processing => .next (finishProcessing s)
  | .idle => .next s
  | .done => .next s
  | .error => .next s

end Sys2Proof.Machine
end

