-- ==== Sys2Proof/Machine/Pixels.lean ====
section
/-! DEFINITION. The pixel transactions (rules R80, R81). -/

namespace Sys2Proof.Machine

/-- `PIX_RD`: answer `len` bytes of `output` from `addr` (rule R80). -/
def execPixRd (addr len : Nat) (s : State) : Host.Outcome State Fault Refusal :=
  .next (answer (s.output.readBytes addr len) s)

/-- `PIX_WR`: store the data in `input` from `addr` (rule R81). During PROCESSING the rule refuses it (U9). -/
def execPixWr (addr : Nat) (data : List Byte) (s : State) : Host.Outcome State Fault Refusal :=
  if s.ctrl = .processing then .refused .pixelWriteDuringProcessing
  else .next (answer [] { s with input := s.input.writeBytes addr data })

end Sys2Proof.Machine
end

