-- ==== Sys2Proof/Machine/RegisterReads.lean ====
section
/-! DEFINITION. The register reads (rules R82 to R91). -/

namespace Sys2Proof.Machine

/-- `RD32.control` (rule R82). -/
def execRd32Control (s : State) : Host.Outcome State Fault Refusal := .next (readRegister .control s)

/-- `RD32.status` (rule R83). -/
def execRd32Status (s : State) : Host.Outcome State Fault Refusal := .next (readRegister .status s)

/-- `RD32.src_addr` (rule R84). -/
def execRd32SrcAddr (s : State) : Host.Outcome State Fault Refusal := .next (readRegister .srcAddr s)

/-- `RD32.dst_addr` (rule R85). -/
def execRd32DstAddr (s : State) : Host.Outcome State Fault Refusal := .next (readRegister .dstAddr s)

/-- `RD32.width` (rule R86). -/
def execRd32Width (s : State) : Host.Outcome State Fault Refusal := .next (readRegister .width s)

/-- `RD32.height` (rule R87). -/
def execRd32Height (s : State) : Host.Outcome State Fault Refusal := .next (readRegister .height s)

/-- `RD32.operation` (rule R88). -/
def execRd32Operation (s : State) : Host.Outcome State Fault Refusal := .next (readRegister .operation s)

/-- `RD32.scale_factor` (rule R89). -/
def execRd32ScaleFactor (s : State) : Host.Outcome State Fault Refusal := .next (readRegister .scaleFactor s)

/-- `RD32.rotation_angle` (rule R90). -/
def execRd32RotationAngle (s : State) : Host.Outcome State Fault Refusal := .next (readRegister .rotationAngle s)

/-- `RD32.color_format` (rule R91). -/
def execRd32ColorFormat (s : State) : Host.Outcome State Fault Refusal := .next (readRegister .colorFormat s)

end Sys2Proof.Machine
end

