-- ==== Sys2Proof/Machine/RegisterWrites.lean ====
section
/-! DEFINITION. The register writes (rules R92 to R101). -/

namespace Sys2Proof.Machine

/-- `WR32.control`: the trigger (rules R92, R110 to R117). The transaction completes whatever the write does. -/
def execWr32Control (v : Word) (s : State) : Host.Outcome State Fault Refusal := .next (answer [] (writeControl v s))

/-- `WR32.status`: every value is rejected (rule R93). -/
def execWr32Status (v : Word) (s : State) : Host.Outcome State Fault Refusal := .next (writeRegister .status v s)

/-- `WR32.src_addr` (rule R94). -/
def execWr32SrcAddr (v : Word) (s : State) : Host.Outcome State Fault Refusal := .next (writeRegister .srcAddr v s)

/-- `WR32.dst_addr` (rule R95). -/
def execWr32DstAddr (v : Word) (s : State) : Host.Outcome State Fault Refusal := .next (writeRegister .dstAddr v s)

/-- `WR32.width` (rule R96). -/
def execWr32Width (v : Word) (s : State) : Host.Outcome State Fault Refusal := .next (writeRegister .width v s)

/-- `WR32.height` (rule R97). -/
def execWr32Height (v : Word) (s : State) : Host.Outcome State Fault Refusal := .next (writeRegister .height v s)

/-- `WR32.operation` (rule R98). -/
def execWr32Operation (v : Word) (s : State) : Host.Outcome State Fault Refusal := .next (writeRegister .operation v s)

/-- `WR32.scale_factor` (rule R99). -/
def execWr32ScaleFactor (v : Word) (s : State) : Host.Outcome State Fault Refusal := .next (writeRegister .scaleFactor v s)

/-- `WR32.rotation_angle` (rule R100). -/
def execWr32RotationAngle (v : Word) (s : State) : Host.Outcome State Fault Refusal := .next (writeRegister .rotationAngle v s)

/-- `WR32.color_format` (rule R101). -/
def execWr32ColorFormat (v : Word) (s : State) : Host.Outcome State Fault Refusal := .next (writeRegister .colorFormat v s)

end Sys2Proof.Machine
end

