-- ==== Sys2Proof/Machine/Dispatch.lean ====
section
/-! DEFINITION. The meaning of every instruction, one arm a row of spec/opcode_table.json. -/

namespace Sys2Proof.Machine

def exec (i : Instr) (s : State) : Host.Outcome State Fault Refusal :=
  match i with
  | .pixRd addr len => Sys2Proof.Machine.execPixRd addr len s
  | .pixWr addr data => Sys2Proof.Machine.execPixWr addr data s
  | .rd32Control => Sys2Proof.Machine.execRd32Control s
  | .rd32Status => Sys2Proof.Machine.execRd32Status s
  | .rd32SrcAddr => Sys2Proof.Machine.execRd32SrcAddr s
  | .rd32DstAddr => Sys2Proof.Machine.execRd32DstAddr s
  | .rd32Width => Sys2Proof.Machine.execRd32Width s
  | .rd32Height => Sys2Proof.Machine.execRd32Height s
  | .rd32Operation => Sys2Proof.Machine.execRd32Operation s
  | .rd32ScaleFactor => Sys2Proof.Machine.execRd32ScaleFactor s
  | .rd32RotationAngle => Sys2Proof.Machine.execRd32RotationAngle s
  | .rd32ColorFormat => Sys2Proof.Machine.execRd32ColorFormat s
  | .wr32Control v => Sys2Proof.Machine.execWr32Control v s
  | .wr32Status v => Sys2Proof.Machine.execWr32Status v s
  | .wr32SrcAddr v => Sys2Proof.Machine.execWr32SrcAddr v s
  | .wr32DstAddr v => Sys2Proof.Machine.execWr32DstAddr v s
  | .wr32Width v => Sys2Proof.Machine.execWr32Width v s
  | .wr32Height v => Sys2Proof.Machine.execWr32Height v s
  | .wr32Operation v => Sys2Proof.Machine.execWr32Operation v s
  | .wr32ScaleFactor v => Sys2Proof.Machine.execWr32ScaleFactor v s
  | .wr32RotationAngle v => Sys2Proof.Machine.execWr32RotationAngle v s
  | .wr32ColorFormat v => Sys2Proof.Machine.execWr32ColorFormat v s
  | .opScale w h factor => Sys2Proof.Machine.execOpScale w h factor s
  | .opRotate0 w h => Sys2Proof.Machine.execOpRotate0 w h s
  | .opRotate90 w h => Sys2Proof.Machine.execOpRotate90 w h s
  | .opRotate180 w h => Sys2Proof.Machine.execOpRotate180 w h s
  | .opRotate270 w h => Sys2Proof.Machine.execOpRotate270 w h s
  | .opRotateGen w h angle => Sys2Proof.Machine.execOpRotateGen w h angle s
  | .opRgbToYuv w h => Sys2Proof.Machine.execOpRgbToYuv w h s
  | .opYuvToRgb w h => Sys2Proof.Machine.execOpYuvToRgb w h s
  | .complete => Sys2Proof.Machine.execComplete s

end Sys2Proof.Machine
end

