-- ==== Sys2Proof/Machine/Cycle.lean ====
section
/-! DEFINITION. One step of the device: which agent acts (rule R5), decoding what it delivers, and running it. -/

namespace Sys2Proof.Machine

/-- Decode a code and run it. A protocol violation is taken (rule R172), and a descriptor with an unknown operation ends
in ERROR (rules R120, R174). -/
def runCode (code : Code) (s : State) : Host.Outcome State Fault Refusal :=
  match decode s.cfg code with
  | .instr i => exec i s
  | .violation r => .next (takeViolation r s)
  | .unknownOperation => .next (finishWith (.err .unknownOperation) s)

/-- The controller's step is enabled: the completion event in ARMED, at its deadline in the timed reading (rule R118),
and FINISH in PROCESSING at any time (rule R124). -/
def controllerEnabled (s : State) : Bool :=
  match s.ctrl with
  | .armed => !s.cfg.timed || decide (s.pending = some s.now)
  | .processing => true
  | .idle => false
  | .done => false
  | .error => false

/-- The controller takes its step. In ARMED it runs the completion event. In PROCESSING it runs the operation its
descriptor selects. Otherwise it waits. -/
def controllerTurn (s : State) : Host.Outcome State Fault Refusal :=
  match s.ctrl with
  | .armed => runCode .completion s
  | .processing =>
    match s.desc with
    | some d => runCode (.operation d) s
    | none => .next s
  | .idle => .next s
  | .done => .next s
  | .error => .next s

/-- Time passes by `n`, with `rest` still to come. In the timed reading it stops at the deadline of an armed operation,
where the completion event fires before it goes on (rule R118). -/
def advanceTime (n : Nat) (rest : List Event) (s : State) : Host.Outcome State Fault Refusal :=
  match s.pending with
  | none => .next { s with now := s.now + n, events := rest }
  | some deadline =>
    if !s.cfg.timed || decide (s.now + n ≤ deadline) then .next { s with now := s.now + n, events := rest }
    else if s.now < deadline then
      .next { s with now := deadline, events := .advance (s.now + n - deadline) :: rest }
    else controllerTurn s

/-- Nothing is delivered. An armed operation completes, in the timed reading at its deadline (rule R126), and a running
one finishes. Otherwise the device waits, and its state is final (rule R127). -/
def undisturbed (s : State) : Host.Outcome State Fault Refusal :=
  if s.cfg.timed then controllerTurn { s with now := max s.now (s.pending.getD 0) } else controllerTurn s

/-- One step. After a protocol violation none is enabled (rule R172). -/
def cycle (s : State) : Host.Outcome State Fault Refusal :=
  match s.fatal with
  | some r => .fault (.stopped r)
  | none =>
    if s.cfg.Legal then
      match s.events with
      | [] => undisturbed s
      | .bus t :: rest => runCode (.transaction t) { s with events := rest }
      | .complete :: rest =>
        if controllerEnabled s then controllerTurn { s with events := rest } else .next { s with events := rest }
      | .advance n :: rest => advanceTime n rest s
    else .refused .illegalConfiguration

/-- The state in which a transaction at a global address comes next: the dispatcher delivers it to the device at its
device-local address (rule R6), and leaves the device alone if it is none of its addresses (log entry 22). -/
def State.deliverGlobal (t : Transaction) (s : State) : State :=
  match t.deviceLocal s.cfg with
  | some u => { s with events := .bus u :: s.events }
  | none => s

/-- The state whose next step runs the instruction a word of spec/opcode_table.json stands for (log entry 20).
A transaction is delivered next. For a descriptor the controller is in PROCESSING with it. For the completion event the
controller is ARMED with the registers' descriptor, due now. -/
def placeTableWord (s : State) (nbits w : Nat) : State :=
  match tableCode s.cfg nbits w with
  | .transaction t => { s with events := .bus t :: s.events }
  | .operation d =>
    { s with
      events := .complete :: s.events, ctrl := .processing, desc := some d, pending := none
      regs :=
        { s.regs with control := clearStart s.cfg s.regs.control, status := statusOf s.cfg .processing } }
  | .completion =>
    { s with
      events := .complete :: s.events, ctrl := .armed, desc := some s.regs.snapshot, pending := some s.now
      regs := { s.regs with control := s.regs.control ||| bit s.cfg.ctrlStartBit, status := 0 } }

end Sys2Proof.Machine
end

