-- ==== Sys2Proof/Machine/Step.lean ====
section
/-! DEFINITION. The step of the machine and the placing of a word of the opcode table. -/

namespace Sys2Proof.Machine

/-- One step of the device and its environment (`cycle`). -/
def step (s : State) : Host.Outcome State Fault Refusal := cycle s

/-- `s` with the instruction of a word of spec/opcode_table.json as the next one (`placeTableWord`). -/
def State.withFetchWord (s : State) (nbits w : Nat) : State := placeTableWord s nbits w

end Sys2Proof.Machine
end

