-- ==== Sys2Proof/Safety.lean ====
section
/-! DEFINITION. What every reachable state satisfies (rule R30), and when a run is over (rule R127). -/

namespace Sys2Proof.Machine

/-- A descriptor's fields obey the bounds of their registers (rule R30 (f)). -/
structure DescriptorInBounds (c : Config) (d : Descriptor) : Prop where
  width : d.width.toNat ≤ c.maxWidth
  height : d.height.toNat ≤ c.maxHeight
  scale : 1 ≤ d.scaleFactor.toNat ∧ d.scaleFactor.toNat ≤ c.scaleMax
  angle : -(c.angleLimit : Int) < d.rotationAngle.toInt ∧ d.rotationAngle.toInt < c.angleLimit

/-- The invariant of rule R30 between steps, items (a) to (g), with what the model's own fields add: legal parameters, the
two buffers in their canonical form and within `FRAME_BUFFER_SIZE`, and, in the timed reading, a deadline that has not
passed (rule R118). It does not mention `fatal`, since a protocol violation changes nothing it speaks of. -/
structure Inv (s : State) : Prop where
  legal : s.cfg.Legal
  /-- (a), (b), (c), and the reserved bits of `status` in (f): `status` is the bit of the controller state and no other. -/
  status : s.regs.status = statusOf s.cfg s.ctrl
  /-- (d) -/
  start : startOf s.cfg s.regs.control = true ↔ s.ctrl = .armed
  /-- (e) -/
  pending : s.pending ≠ none ↔ s.ctrl = .armed
  /-- (e) -/
  desc : s.desc ≠ none ↔ s.ctrl = .armed ∨ s.ctrl = .processing
  /-- (f): the reserved bits of `control` are 0. -/
  control : s.regs.control &&& ~~~ controlMask s.cfg = 0
  /-- (f) -/
  registers : DescriptorInBounds s.cfg s.regs.snapshot
  /-- (f) -/
  descriptor : ∀ d, s.desc = some d → DescriptorInBounds s.cfg d
  /-- (g) -/
  outputFits : s.outW * s.outH * s.cfg.channels ≤ s.cfg.frameBufferSize
  inputWf : s.input.wf = true
  inputWithin : s.input.within s.cfg.frameBufferSize = true
  outputWf : s.output.wf = true
  outputWithin : s.output.within s.cfg.frameBufferSize = true
  deadline : s.cfg.timed = true → ∀ t, s.pending = some t → s.now ≤ t

/-- No work is armed or running (rule R127). -/
def AtRest (s : State) : Prop := s.ctrl = .idle ∨ s.ctrl = .done ∨ s.ctrl = .error

/-- A quiescent state: no violation, no work armed or running, and nothing more to be delivered (rule R127). -/
def Quiescent (s : State) : Prop := s.fatal = none ∧ AtRest s ∧ s.events = []

/-- The interrupt log after a completion: one more request if `control.IRQ_ENABLE` is set (rules R123, R175). -/
def irqLogAfter (s : State) : List Nat :=
  if irqEnableOf s.cfg s.regs.control then s.irqLog ++ [s.cfg.irqNumber] else s.irqLog

/-- `t` is `s` with its operation ended in `ctrl` (rules R119, R123): `status` is that state's bit alone, the descriptor is
dropped, the interrupt is requested if enabled, and apart from that only `output`, `out_w` and `out_h` may differ. -/
def EndedIn (ctrl : CtrlState) (s t : State) : Prop :=
  t =
    { s with
      output := t.output
      outW := t.outW
      outH := t.outH
      regs := { s.regs with status := statusOf s.cfg ctrl }
      ctrl := ctrl
      desc := none
      irqLog := irqLogAfter s }

/-- `t` is `s` with its operation ended in ERROR: the three output fields are as they were (rule R174). -/
def EndedInError (s t : State) : Prop :=
  EndedIn .error s t ∧ t.output = s.output ∧ t.outW = s.outW ∧ t.outH = s.outH

/-- `output` of `t` holds a `w` by `h` image whose byte of channel `c` of pixel `(x, y)` is `f x y c` (rules R8, R122). -/
def HoldsImage (t : State) (w h : Nat) (f : Nat → Nat → Nat → Byte) : Prop :=
  t.outW = w ∧ t.outH = h ∧
  ∀ x y c, x < w → y < h → c < t.cfg.channels → t.output.read (pixelIndex t.cfg.channels w x y c) = f x y c

/-- The byte of channel `c` of pixel `(x, y)` of the input image, which is `w` pixels wide (rule R8). -/
def inputPixel (s : State) (w x y c : Nat) : Byte := s.input.read (pixelIndex s.cfg.channels w x y c)

end Sys2Proof.Machine
end

