-- ==== Sys2Proof/Certificates/Slice0/Obligations.lean ====
section
/-! DEFINITION. The statements for the provers. Each says which rule of spec/ it formalises, and where it rests on a choice
that the spec marks as its own (a D<n> of spec/92) or on a log entry of this model, it says so. -/

open Sys2Proof Sys2Proof.Machine

/-! ### Decoding -/

/-- Rules R61, R62, R65, R68, R140: decoding the code of a well-formed instruction gives it back, with every operand at
every value the encoding admits. The byte order is D25's, and the encoder's unread descriptor fields are the model's. -/
def Obligations.DecodeUndoesEncode : Prop :=
  ∀ (c : Config) (i : Instr), c.Legal → i.wellFormed c = true → decode c (encode c i) = .instr i

/-- Rules R60, R61, R74: no two transactions decode to one instruction, and the encoder gives the transaction back. -/
def Obligations.EncodeUndoesDecodeOfTransactions : Prop :=
  ∀ (c : Config) (t : Transaction) (i : Instr), decode c (.transaction t) = .instr i → encode c i = .transaction t

/-- Rule R171: a transaction is a protocol violation for the four reasons of the table and no other, in both directions
alike. -/
def Obligations.ViolationsAreExactlyTheTables : Prop :=
  ∀ (c : Config) (t : Transaction), c.Legal →
    (decode c (.transaction t) = .violation .partialRegisterAccess ↔ c.controlBase ≤ t.addr ∧ t.length ≠ 4) ∧
    (decode c (.transaction t) = .violation .unmappedControlAddress ↔
      c.controlBase ≤ t.addr ∧ t.length = 4 ∧
        t.addr - c.controlBase ∉ [0x00, 0x04, 0x08, 0x0c, 0x10, 0x14, 0x18, 0x1c, 0x20, 0x24]) ∧
    (decode c (.transaction t) = .violation .pixelWindowOverrun ↔
      t.addr < c.frameBufferSize ∧ c.frameBufferSize < t.addr + t.length) ∧
    (decode c (.transaction t) = .violation .unmappedAddress ↔
      c.frameBufferSize ≤ t.addr ∧ t.addr < c.controlBase)

/-- Rules R62, R65, R74 and vectors V1, V2, V19, V42a: five transactions, four descriptors and the completion event,
written out from the spec's tables, decode to what they stand for. The numbers are those of D1, D11 and D25. -/
def Obligations.WrittenOutCodesDecode : Prop :=
  decode Config.standard (.transaction (.write 0xff0000 [0x07, 0x00, 0x00, 0x00])) = .instr (.wr32Control 7) ∧
  decode Config.standard (.transaction (.read 0xff0024 4)) = .instr .rd32ColorFormat ∧
  decode Config.standard (.transaction (.write 0xff0020 [0xa6, 0xff, 0xff, 0xff])) =
    .instr (.wr32RotationAngle 0xffffffa6) ∧
  decode Config.standard (.transaction (.read 0 16)) = .instr (.pixRd 0 16) ∧
  decode Config.standard (.transaction (.write 3 [0x09])) = .instr (.pixWr 3 [0x09]) ∧
  decode Config.standard (.operation ⟨0, 3, 2, 200, 0, 0⟩) = .instr (.opScale 3 2 200) ∧
  decode Config.standard (.operation ⟨1, 3, 2, 100, 0xffffffa6, 0⟩) = .instr (.opRotate270 3 2) ∧
  decode Config.standard (.operation ⟨2, 2, 1, 100, 0, 0⟩) = .instr (.opRgbToYuv 2 1) ∧
  decode Config.standard (.operation ⟨7, 2, 1, 100, 0, 0⟩) = .unknownOperation ∧
  decode Config.standard .completion = .instr .complete

/-- Rules R62, R82 to R101: the offset of each register, for its read and for its write. The data is read with the least
significant byte first, which is D25's (log entry 19, PRESUMED). -/
def Obligations.RegisterTransactionsDecodeByOffset : Prop :=
  ∀ (c : Config) (v : Word),
    ∀ p ∈
      [(0x00, Instr.rd32Control, Instr.wr32Control v), (0x04, .rd32Status, .wr32Status v),
        (0x08, .rd32SrcAddr, .wr32SrcAddr v), (0x0c, .rd32DstAddr, .wr32DstAddr v),
        (0x10, .rd32Width, .wr32Width v), (0x14, .rd32Height, .wr32Height v),
        (0x18, .rd32Operation, .wr32Operation v), (0x1c, .rd32ScaleFactor, .wr32ScaleFactor v),
        (0x20, .rd32RotationAngle, .wr32RotationAngle v), (0x24, .rd32ColorFormat, .wr32ColorFormat v)],
      decode c (.transaction (.read (c.controlBase + p.1) 4)) = .instr p.2.1 ∧
      decode c (.transaction (.write (c.controlBase + p.1) (bytesLe32 v))) = .instr p.2.2

/-- Rules R65, R140: the operation a descriptor selects. A rotation goes by its angle modulo 360, the floor modulus, and
every multiple of 90 takes a fast path. The canonical range is D15's and the sense of rotation is D20's. -/
def Obligations.DescriptorSelectsByCodeAndAngle : Prop :=
  ∀ (c : Config) (d : Descriptor), c.Legal →
    (d.operation = c.opScale → decode c (.operation d) = .instr (.opScale d.width d.height d.scaleFactor)) ∧
    (d.operation = c.opRotate →
      (d.rotationAngle.toInt % 360 = 0 → decode c (.operation d) = .instr (.opRotate0 d.width d.height)) ∧
      (d.rotationAngle.toInt % 360 = 90 → decode c (.operation d) = .instr (.opRotate90 d.width d.height)) ∧
      (d.rotationAngle.toInt % 360 = 180 → decode c (.operation d) = .instr (.opRotate180 d.width d.height)) ∧
      (d.rotationAngle.toInt % 360 = 270 → decode c (.operation d) = .instr (.opRotate270 d.width d.height)) ∧
      (d.rotationAngle.toInt % 90 ≠ 0 →
        decode c (.operation d) = .instr (.opRotateGen d.width d.height (d.rotationAngle.toInt % 360).toNat))) ∧
    (d.operation = c.opRgbToYuv → decode c (.operation d) = .instr (.opRgbToYuv d.width d.height)) ∧
    (d.operation = c.opYuvToRgb → decode c (.operation d) = .instr (.opYuvToRgb d.width d.height)) ∧
    (d.operation ≠ c.opScale ∧ d.operation ≠ c.opRotate ∧ d.operation ≠ c.opRgbToYuv ∧ d.operation ≠ c.opYuvToRgb →
      decode c (.operation d) = .unknownOperation)

/-! ### Steps -/

/-- Rules R5, R47: a step that finds a transaction delivered runs the instruction it decodes to, with the delivery taken
off the environment's list (log entry 1). -/
def Obligations.StepRunsTheDecodedTransaction : Prop :=
  ∀ (s : State) (t : Transaction) (rest : List Event) (i : Instr),
    s.fatal = none → s.cfg.Legal → s.events = .bus t :: rest → decode s.cfg (.transaction t) = .instr i →
      step s = exec i { s with events := rest }

/-- Rules R5, R6: a transaction at a global address runs as the device-local one at that address less `DEVICE_BASE`, and
one below `DEVICE_BASE` does not reach the device, which is log entry 22's reading. -/
def Obligations.DispatchSubtractsTheDeviceBase : Prop :=
  ∀ (s : State) (t : Transaction), s.fatal = none → s.cfg.Legal →
    (∀ i, decode s.cfg (.transaction t) = .instr i →
      step (s.deliverGlobal (t.atAddress (s.cfg.deviceBase + t.addr))) = exec i s) ∧
    (∀ r, decode s.cfg (.transaction t) = .violation r →
      step (s.deliverGlobal (t.atAddress (s.cfg.deviceBase + t.addr))) = .next { s with fatal := some r, reply := none }) ∧
    (t.addr < s.cfg.deviceBase → s.deliverGlobal t = s)

/-- Rules R118, R119, R124: a step in which the controller is let run is the completion event in ARMED (in the timed
reading only at the deadline), and in PROCESSING the operation its descriptor decodes to, or a fault for an unknown code.
The untimed reading and the split profile are D27's and D28's. -/
def Obligations.StepRunsTheControllersCode : Prop :=
  ∀ (s : State) (rest : List Event), s.fatal = none → s.cfg.Legal → s.events = .complete :: rest →
    (s.ctrl = .armed → (s.cfg.timed = false ∨ s.pending = some s.now) →
      step s = exec .complete { s with events := rest }) ∧
    (s.ctrl = .armed → s.cfg.timed = true → s.pending ≠ some s.now → step s = .next { s with events := rest }) ∧
    (∀ d i, s.ctrl = .processing → s.desc = some d → decode s.cfg (.operation d) = .instr i →
      step s = exec i { s with events := rest }) ∧
    (∀ d, s.ctrl = .processing → s.desc = some d → decode s.cfg (.operation d) = .unknownOperation →
      ∃ t, step s = .next t ∧ EndedInError { s with events := rest } t)

/-- Rule R172: a protocol violation changes nothing but `fatal` and returns no data, and after it no step is enabled. That
the offending transaction has no effect is D26's. -/
def Obligations.ViolationStopsTheDevice : Prop :=
  (∀ (s : State) (t : Transaction) (rest : List Event) (r : FatalReason),
    s.fatal = none → s.cfg.Legal → s.events = .bus t :: rest → decode s.cfg (.transaction t) = .violation r →
      step s = .next { s with events := rest, fatal := some r, reply := none }) ∧
  (∀ (s : State) (r : FatalReason), s.fatal = some r → step s = .fault (.stopped r))

/-- Rule R126: an operation that nothing disturbs completes. With nothing more to be delivered, the step of an ARMED
controller is the completion event, in the timed reading at its deadline; with `PROCESSING_ATOMIC` it ends in DONE or ERROR,
and in the split profile it is BEGIN, and the step after it ends in DONE or ERROR; and so does every step of a running
operation. That the kernel lets the event fire when nothing more is delivered is log entry 1, and the split profile is
D28's. -/
def Obligations.UndisturbedArmedOperationCompletes : Prop :=
  ∀ (s : State), Inv s → s.fatal = none → s.events = [] →
    (s.ctrl = .armed →
      ∃ t, step s = .next t ∧ exec .complete { s with now := t.now } = .next t ∧ t.pending = none ∧
        (s.cfg.timed = true → s.pending = some t.now) ∧ (s.cfg.timed = false → t.now = s.now) ∧
        (s.cfg.processingAtomic = true → (t.ctrl = .done ∨ t.ctrl = .error) ∧ t.desc = none) ∧
        (s.cfg.processingAtomic = false →
          t.ctrl = .processing ∧ t.desc = s.desc ∧ ∃ u, step t = .next u ∧ (u.ctrl = .done ∨ u.ctrl = .error))) ∧
    (s.ctrl = .processing →
      ∃ t, step s = .next t ∧ exec .complete s = .next t ∧ (t.ctrl = .done ∨ t.ctrl = .error) ∧ t.pending = none ∧
        t.desc = none)

/-- Rule R127: a quiescent state is final. That the model's step then leaves it as it is, is log entry 1. -/
def Obligations.QuiescentStateIsFinal : Prop :=
  ∀ (s : State), Inv s → Quiescent s → step s = .next s

/-- Rules R6, R31: the construction parameters are no step's to change (log entry 2). -/
def Obligations.StepsKeepTheParameters : Prop :=
  ∀ (s t : State), step s = .next t → t.cfg = s.cfg

/-! ### Register reads -/

/-- Rules R84 to R91: each read of a configuration register, at its address, answers its content and changes nothing. That
the answer has the least significant byte first is D25's (log entry 19, PRESUMED). -/
def Obligations.ConfigurationReadsAnswerTheRegister : Prop :=
  ∀ (s : State),
    (decode s.cfg (.transaction (.read (s.cfg.controlBase + 0x08) 4)) = .instr .rd32SrcAddr ∧
      exec .rd32SrcAddr s = .next { s with reply := some (bytesLe32 s.regs.srcAddr) }) ∧
    (decode s.cfg (.transaction (.read (s.cfg.controlBase + 0x0c) 4)) = .instr .rd32DstAddr ∧
      exec .rd32DstAddr s = .next { s with reply := some (bytesLe32 s.regs.dstAddr) }) ∧
    (decode s.cfg (.transaction (.read (s.cfg.controlBase + 0x10) 4)) = .instr .rd32Width ∧
      exec .rd32Width s = .next { s with reply := some (bytesLe32 s.regs.width) }) ∧
    (decode s.cfg (.transaction (.read (s.cfg.controlBase + 0x14) 4)) = .instr .rd32Height ∧
      exec .rd32Height s = .next { s with reply := some (bytesLe32 s.regs.height) }) ∧
    (decode s.cfg (.transaction (.read (s.cfg.controlBase + 0x18) 4)) = .instr .rd32Operation ∧
      exec .rd32Operation s = .next { s with reply := some (bytesLe32 s.regs.operation) }) ∧
    (decode s.cfg (.transaction (.read (s.cfg.controlBase + 0x1c) 4)) = .instr .rd32ScaleFactor ∧
      exec .rd32ScaleFactor s = .next { s with reply := some (bytesLe32 s.regs.scaleFactor) }) ∧
    (decode s.cfg (.transaction (.read (s.cfg.controlBase + 0x20) 4)) = .instr .rd32RotationAngle ∧
      exec .rd32RotationAngle s = .next { s with reply := some (bytesLe32 s.regs.rotationAngle) }) ∧
    (decode s.cfg (.transaction (.read (s.cfg.controlBase + 0x24) 4)) = .instr .rd32ColorFormat ∧
      exec .rd32ColorFormat s = .next { s with reply := some (bytesLe32 s.regs.colorFormat) })

/-- Rules R30, R82, R83: a read of `control` shows `ENABLE` and `IRQ_ENABLE` as the register holds them, `START` exactly
while ARMED and no reserved bit, and a read of `status` shows the bit of the controller state and no other; neither read
changes anything. The reserved bits are D3's, when `START` clears is D5's, and that the answer has the least significant
byte first is D25's (log entry 19, PRESUMED). -/
def Obligations.ControlAndStatusReadsShowTheState : Prop :=
  ∀ (s : State), Inv s →
    (∃ v, exec .rd32Control s = .next { s with reply := some (bytesLe32 v) } ∧
      enableOf s.cfg v = enableOf s.cfg s.regs.control ∧ irqEnableOf s.cfg v = irqEnableOf s.cfg s.regs.control ∧
      (startOf s.cfg v = true ↔ s.ctrl = .armed) ∧
      (∀ k, v.getLsbD k = true → k = s.cfg.ctrlEnableBit ∨ k = s.cfg.ctrlIrqEnableBit ∨ k = s.cfg.ctrlStartBit)) ∧
    (∃ v, exec .rd32Status s = .next { s with reply := some (bytesLe32 v) } ∧
      (busyOf s.cfg v = true ↔ s.ctrl = .processing) ∧ (doneOf s.cfg v = true ↔ s.ctrl = .done) ∧
      (errorOf s.cfg v = true ↔ s.ctrl = .error) ∧
      (∀ k, v.getLsbD k = true → k = s.cfg.statBusyBit ∨ k = s.cfg.statDoneBit ∨ k = s.cfg.statErrorBit))

/-! ### Register writes -/

/-- Rules R96, R97, R98: `width` and `height` take a value up to their maximum (unsigned) and keep the old one otherwise;
`operation` takes any value. The transaction, at the register's address, completes and nothing else changes. That 0 is a
legal size is D8's, that every operation code is stored is D11's, and that the data has the least significant byte first is
D25's (log entry 19, PRESUMED). -/
def Obligations.SizeAndOperationWrites : Prop :=
  ∀ (s : State) (v : Word),
    (decode s.cfg (.transaction (.write (s.cfg.controlBase + 0x10) (bytesLe32 v))) = .instr (.wr32Width v) ∧
      exec (.wr32Width v) s =
        .next { s with
          regs := { s.regs with width := if v.toNat ≤ s.cfg.maxWidth then v else s.regs.width }, reply := some [] }) ∧
    (decode s.cfg (.transaction (.write (s.cfg.controlBase + 0x14) (bytesLe32 v))) = .instr (.wr32Height v) ∧
      exec (.wr32Height v) s =
        .next { s with
          regs := { s.regs with height := if v.toNat ≤ s.cfg.maxHeight then v else s.regs.height }
          reply := some [] }) ∧
    (decode s.cfg (.transaction (.write (s.cfg.controlBase + 0x18) (bytesLe32 v))) = .instr (.wr32Operation v) ∧
      exec (.wr32Operation v) s = .next { s with regs := { s.regs with operation := v }, reply := some [] })

/-- Rules R94, R95, R99, R100, R101: the other configuration writes. That every value of `src_addr`, `dst_addr` and
`color_format` is taken is D7's and D12's; the bounds of `scale_factor` and `rotation_angle` are D13's and D14's. -/
def Obligations.AddressScaleAngleAndFormatWrites : Prop :=
  ∀ (s : State) (v : Word),
    exec (.wr32SrcAddr v) s = .next { s with regs := { s.regs with srcAddr := v }, reply := some [] } ∧
    exec (.wr32DstAddr v) s = .next { s with regs := { s.regs with dstAddr := v }, reply := some [] } ∧
    exec (.wr32ColorFormat v) s = .next { s with regs := { s.regs with colorFormat := v }, reply := some [] } ∧
    exec (.wr32ScaleFactor v) s =
      .next { s with
        regs :=
          { s.regs with
            scaleFactor := if 1 ≤ v.toNat ∧ v.toNat ≤ s.cfg.scaleMax then v else s.regs.scaleFactor }
        reply := some [] } ∧
    exec (.wr32RotationAngle v) s =
      .next { s with
        regs :=
          { s.regs with
            rotationAngle :=
              if -(s.cfg.angleLimit : Int) < v.toInt ∧ v.toInt < s.cfg.angleLimit then v else s.regs.rotationAngle }
        reply := some [] }

/-- Rule R173: a write of an invalid value, and every write to `status`, changes nothing at all, and the transaction
completes. -/
def Obligations.RejectedWritesChangeNothing : Prop :=
  ∀ (s : State) (v : Word),
    (s.cfg.maxWidth < v.toNat → exec (.wr32Width v) s = .next { s with reply := some [] }) ∧
    (s.cfg.maxHeight < v.toNat → exec (.wr32Height v) s = .next { s with reply := some [] }) ∧
    (v = 0 ∨ s.cfg.scaleMax < v.toNat → exec (.wr32ScaleFactor v) s = .next { s with reply := some [] }) ∧
    (v.toInt ≤ -(s.cfg.angleLimit : Int) ∨ (s.cfg.angleLimit : Int) ≤ v.toInt →
      exec (.wr32RotationAngle v) s = .next { s with reply := some [] }) ∧
    exec (.wr32Status v) s = .next { s with reply := some [] }

/-- Rule R194: an accepted write to a register of the descriptor changes the register, which reads back as written, and not
the operation under way; the next trigger write takes the new value. That the read answers the least significant byte first
is D25's (log entry 19, PRESUMED), and that `START` alone makes a trigger write, with `ENABLE` 0 too, is D4's (log entry
14). -/
def Obligations.ConfigurationAfterTheTriggerIsNotSeen : Prop :=
  ∀ (s : State) (r : Reg) (v : Word),
    r ∈ [Reg.operation, Reg.width, Reg.height, Reg.scaleFactor, Reg.rotationAngle, Reg.colorFormat] →
    accepts s.cfg v r = true →
      ∃ t, exec (writeInstr v r) s = .next t ∧ t.regs.get r = v ∧
        t = { s with regs := t.regs, reply := some [] } ∧ (∀ q, q ≠ r → t.regs.get q = s.regs.get q) ∧
        exec (readInstr r) t = .next { t with reply := some (bytesLe32 v) } ∧
        ∀ w, t.ctrl ≠ .processing → startOf s.cfg w = true →
          ∃ u, exec (.wr32Control w) t = .next u ∧ u.ctrl = .armed ∧
            u.desc = some ⟨t.regs.operation, t.regs.width, t.regs.height, t.regs.scaleFactor, t.regs.rotationAngle,
              t.regs.colorFormat⟩

/-! ### The control register and the controller -/

/-- Rules R112, R113: a trigger write in any state but PROCESSING arms: status is cleared, the descriptor is taken from the
registers now, one completion is scheduled at `now + PROCESSING_DELAY`, `START` reads 1, and nothing is raised. From ARMED
it replaces what was scheduled. That `START` alone makes a trigger write, with `ENABLE` 0 too, is D4's, where U3 lets a
model refuse it (log entry 14). -/
def Obligations.TriggerWriteArms : Prop :=
  ∀ (s : State) (v : Word), s.cfg.Legal → s.ctrl ≠ .processing → startOf s.cfg v = true →
    ∃ t, exec (.wr32Control v) s = .next t ∧ t.ctrl = .armed ∧
      t.desc = some ⟨s.regs.operation, s.regs.width, s.regs.height, s.regs.scaleFactor, s.regs.rotationAngle,
        s.regs.colorFormat⟩ ∧
      t.pending = some (s.now + s.cfg.processingDelay) ∧
      busyOf s.cfg t.regs.status = false ∧ doneOf s.cfg t.regs.status = false ∧
      errorOf s.cfg t.regs.status = false ∧
      startOf s.cfg t.regs.control = true ∧ enableOf s.cfg t.regs.control = enableOf s.cfg v ∧
      irqEnableOf s.cfg t.regs.control = irqEnableOf s.cfg v ∧
      t =
        { s with
          regs := { s.regs with control := t.regs.control, status := t.regs.status }
          desc := t.desc
          pending := t.pending
          ctrl := t.ctrl
          reply := some [] }

/-- Rule R114: a control write with `START` = 0 while ARMED cancels: IDLE, no descriptor, nothing pending, `START` = 0,
`status` = 0, `output` unchanged, no interrupt. -/
def Obligations.CancellingWriteDiscardsTheOperation : Prop :=
  ∀ (s : State) (v : Word), Inv s → s.ctrl = .armed → startOf s.cfg v = false →
    ∃ t, exec (.wr32Control v) s = .next t ∧ t.ctrl = .idle ∧ t.desc = none ∧ t.pending = none ∧
      startOf s.cfg t.regs.control = false ∧ t.regs.status = 0 ∧
      enableOf s.cfg t.regs.control = enableOf s.cfg v ∧
      irqEnableOf s.cfg t.regs.control = irqEnableOf s.cfg v ∧
      t =
        { s with
          regs := { s.regs with control := t.regs.control }
          desc := none
          pending := none
          ctrl := .idle
          reply := some [] }

/-- Rule R115: a control write with `START` = 0 in IDLE, DONE or ERROR stores the register and changes nothing else; that
`status` is kept is D36's. -/
def Obligations.PlainControlWriteKeepsTheState : Prop :=
  ∀ (s : State) (v : Word), Inv s → AtRest s → startOf s.cfg v = false →
    ∃ t, exec (.wr32Control v) s = .next t ∧ enableOf s.cfg t.regs.control = enableOf s.cfg v ∧
      irqEnableOf s.cfg t.regs.control = irqEnableOf s.cfg v ∧ startOf s.cfg t.regs.control = false ∧
      t = { s with regs := { s.regs with control := t.regs.control }, reply := some [] }

/-- Rule R116: a control write during PROCESSING is ignored, the whole of it, and the transaction completes. That the
whole write is ignored, and a write with `START` = 0 too, is D28's. -/
def Obligations.ControlWriteDuringProcessingIsIgnored : Prop :=
  ∀ (s : State) (v : Word), s.ctrl = .processing → exec (.wr32Control v) s = .next { s with reply := some [] }

/-- Rules R63, R92: a control write stores the three defined bits as written and drops every other bit, which is D3's. -/
def Obligations.ControlWriteStoresTheDefinedBits : Prop :=
  ∀ (s : State) (v : Word), s.ctrl ≠ .processing →
    ∃ t, exec (.wr32Control v) s = .next t ∧
      ∀ k, t.regs.control.getLsbD k =
        (v.getLsbD k &&
          decide (k = s.cfg.ctrlEnableBit ∨ k = s.cfg.ctrlIrqEnableBit ∨ k = s.cfg.ctrlStartBit))

/-- Rules R119, R122, R123: the completion event of an ARMED controller with `PROCESSING_ATOMIC`. It runs the descriptor on
`input` as it is now, commits the image or leaves the output fields, sets `DONE` or `ERROR` alone, clears `START` and no
other bit of `control`, drops the descriptor, and requests the interrupt if enabled. The moment `START` clears is D5's. -/
def Obligations.CompletionEventRunsTheDescriptor : Prop :=
  ∀ (s : State) (d : Descriptor), s.cfg.Legal → s.ctrl = .armed → s.desc = some d → s.cfg.processingAtomic = true →
    ∃ t, exec .complete s = .next t ∧
      (match run s.cfg d s.input with
        | .ok img =>
          t.ctrl = .done ∧ t.outW = img.w ∧ t.outH = img.h ∧ img.bytes.length = img.w * img.h * s.cfg.channels ∧
            ∀ k, k < img.bytes.length → t.output.read k = img.bytes.getD k 0
        | .err _ => t.ctrl = .error ∧ t.outW = s.outW ∧ t.outH = s.outH ∧ t.output = s.output) ∧
      startOf s.cfg t.regs.control = false ∧
      (∀ k, k ≠ s.cfg.ctrlStartBit → t.regs.control.getLsbD k = s.regs.control.getLsbD k) ∧
      t =
        { s with
          regs := { s.regs with control := t.regs.control, status := statusOf s.cfg t.ctrl }
          output := t.output
          outW := t.outW
          outH := t.outH
          ctrl := t.ctrl
          desc := none
          pending := none
          irqLog := irqLogAfter s }

/-- Rules R120, R174: the causes of a runtime transform fault, and that it leaves the output fields as they were. The causes
for a colour operation without three channels and for a result that does not fit are D24's and D18's. That a result of zero
area is no cause, so that its SCALE ends in DONE, is D17's, where U5 lets a model refuse it (log entry 16). -/
def Obligations.CompletionFailsForTheTabledCauses : Prop :=
  ∀ (s : State) (d : Descriptor), s.cfg.Legal → s.ctrl = .armed → s.desc = some d → s.cfg.processingAtomic = true →
    ∃ t, exec .complete s = .next t ∧ (t.ctrl = .done ∨ t.ctrl = .error) ∧
      (t.ctrl = .error ↔
        d.width = 0 ∨ d.height = 0 ∨
        (d.operation ≠ s.cfg.opScale ∧ d.operation ≠ s.cfg.opRotate ∧ d.operation ≠ s.cfg.opRgbToYuv ∧
          d.operation ≠ s.cfg.opYuvToRgb) ∨
        ((d.operation = s.cfg.opRgbToYuv ∨ d.operation = s.cfg.opYuvToRgb) ∧ s.cfg.channels ≠ 3) ∨
        ∃ op, selectOperation s.cfg d = some op ∧
          s.cfg.frameBufferSize <
            (outDims s.cfg d.width.toNat d.height.toNat op).1 * (outDims s.cfg d.width.toNat d.height.toNat op).2 *
              s.cfg.channels) ∧
      (t.ctrl = .error → t.output = s.output ∧ t.outW = s.outW ∧ t.outH = s.outH)

/-- Rule R124: the split profile, BEGIN and then FINISH with no transaction between, does what the atomic completion event
does. The split profile is D28's. -/
def Obligations.SplitProfileDoesWhatTheAtomicEventDoes : Prop :=
  ∀ (s a : State) (d : Descriptor), s.ctrl = .armed → s.desc = some d → s.cfg.processingAtomic = false →
    a.cfg = { s.cfg with processingAtomic := true } → a = { s with cfg := a.cfg } →
    ∃ u t,
      exec .complete s = .next u ∧
      u.ctrl = .processing ∧ u.regs.status = statusOf s.cfg .processing ∧ startOf s.cfg u.regs.control = false ∧
      u.desc = some d ∧ u.pending = none ∧ u.output = s.output ∧ u.irqLog = s.irqLog ∧
      exec .complete u = .next t ∧ exec .complete a = .next { t with cfg := a.cfg }

/-- Rules R119, R121, R124: in PROCESSING the event FINISH is the operation the descriptor decodes to. -/
def Obligations.FinishIsTheSelectedOperation : Prop :=
  ∀ (s : State) (d : Descriptor) (i : Instr), s.ctrl = .processing → s.desc = some d →
    decode s.cfg (.operation d) = .instr i → exec .complete s = exec i s

/-- Rule R110: the controller moves by the transition table and no other way, over every step. The rows of PROCESSING are
D28's. -/
def Obligations.ControllerMovesByTheTransitionTable : Prop :=
  ∀ (s t : State), Inv s → step s = .next t →
    (∀ tr rest v, s.events = .bus tr :: rest → decode s.cfg (.transaction tr) = .instr (.wr32Control v) →
      t.ctrl =
        if s.ctrl = .processing then .processing
        else if startOf s.cfg v then .armed
        else if s.ctrl = .armed then .idle else s.ctrl) ∧
    (∀ tr rest, s.events = .bus tr :: rest → (∀ v, decode s.cfg (.transaction tr) ≠ .instr (.wr32Control v)) →
      t.ctrl = s.ctrl) ∧
    ((∀ tr rest, s.events ≠ .bus tr :: rest) →
      t.ctrl = s.ctrl ∨
      (s.ctrl = .armed ∧ s.cfg.processingAtomic = true ∧ (t.ctrl = .done ∨ t.ctrl = .error)) ∨
      (s.ctrl = .armed ∧ s.cfg.processingAtomic = false ∧ t.ctrl = .processing) ∨
      (s.ctrl = .processing ∧ (t.ctrl = .done ∨ t.ctrl = .error)))

/-- Rules R125, R175: a step requests at most one interrupt, and it does so exactly when it ends an operation with
`control.IRQ_ENABLE` set. That the request is an event is D29's. -/
def Obligations.InterruptExactlyAtEnabledCompletion : Prop :=
  ∀ (s t : State), Inv s → step s = .next t →
    ((s.ctrl = .armed ∨ s.ctrl = .processing) ∧ (t.ctrl = .done ∨ t.ctrl = .error) ∧
        irqEnableOf s.cfg s.regs.control = true →
      t.irqLog = s.irqLog ++ [s.cfg.irqNumber]) ∧
    (¬ ((s.ctrl = .armed ∨ s.ctrl = .processing) ∧ (t.ctrl = .done ∨ t.ctrl = .error) ∧
        irqEnableOf s.cfg s.regs.control = true) →
      t.irqLog = s.irqLog)

/-- Rule R176: the interrupt condition is the same for DONE and for ERROR, and `status` tells them apart; for the whole
completion event and for its finish part alike. -/
def Obligations.InterruptOnErrorAsOnSuccess : Prop :=
  ∀ (s : State) (d : Descriptor), s.cfg.Legal → s.desc = some d →
    (s.ctrl = .processing ∨ (s.ctrl = .armed ∧ s.cfg.processingAtomic = true)) →
    ∃ t, exec .complete s = .next t ∧
      t.irqLog = (if irqEnableOf s.cfg s.regs.control then s.irqLog ++ [s.cfg.irqNumber] else s.irqLog) ∧
      ((t.ctrl = .done ∧ doneOf s.cfg t.regs.status = true ∧ errorOf s.cfg t.regs.status = false) ∨
       (t.ctrl = .error ∧ doneOf s.cfg t.regs.status = false ∧ errorOf s.cfg t.regs.status = true))

/-- Rules R12, R179: `DONE` and `ERROR` stay set until a trigger write; no other step clears either. -/
def Obligations.StatusClearsOnlyAtATriggerWrite : Prop :=
  ∀ (s t : State), Inv s → step s = .next t →
    (doneOf s.cfg s.regs.status = true ∧ doneOf s.cfg t.regs.status = false) ∨
      (errorOf s.cfg s.regs.status = true ∧ errorOf s.cfg t.regs.status = false) →
    ∃ tr rest v, s.events = .bus tr :: rest ∧ decode s.cfg (.transaction tr) = .instr (.wr32Control v) ∧
      startOf s.cfg v = true ∧ t.ctrl = .armed

/-- Rule R118, the timed reading (D27): an armed operation leaves ARMED without a transaction only at its deadline. -/
def Obligations.TimedCompletionFiresAtItsDeadline : Prop :=
  ∀ (s t : State), Inv s → s.cfg.timed = true → s.ctrl = .armed → (∀ tr rest, s.events ≠ .bus tr :: rest) →
    step s = .next t → t.ctrl ≠ .armed → s.pending = some t.now

/-- Rules R29, R110, R118: a step in which time passes moves the clock and the environment's list and nothing else, and a
turn given to the controller at rest takes itself off the list and does nothing. In the timed reading the clock stops at the
deadline of an armed operation, and there the step is the completion event. The two readings are D27's, how the list holds
the time that is left is log entry 7, and that time comes in whole units is log entry 27. -/
def Obligations.PassingTimeAndIdleTurnsMoveOnlyClockAndList : Prop :=
  ∀ (s : State) (rest : List Event), Inv s → s.fatal = none →
    (AtRest s → s.events = .complete :: rest → step s = .next { s with events := rest }) ∧
    ∀ n, s.events = .advance n :: rest →
      (s.cfg.timed = false ∨ s.ctrl ≠ .armed → step s = .next { s with now := s.now + n, events := rest }) ∧
      ∀ p, s.cfg.timed = true → s.pending = some p →
        (s.now + n ≤ p → step s = .next { s with now := s.now + n, events := rest }) ∧
        (s.now < p → p < s.now + n → step s = .next { s with now := p, events := .advance (s.now + n - p) :: rest }) ∧
        (s.now = p → 0 < n → step s = exec .complete s)

/-! ### The pixel window and the buffers -/

/-- Rule R41: in the pixel window a READ returns `output` and a WRITE populates `input`, byte for byte, and neither touches
anything else; so a write followed by a read returns `output`, not what was written. -/
def Obligations.PixelWindowReadsOutputAndWritesInput : Prop :=
  (∀ (s : State) (a n : Nat), s.cfg.Legal → s.cfg.inPixelWindow a n →
    decode s.cfg (.transaction (.read a n)) = .instr (.pixRd a n) ∧
    ∃ data, exec (.pixRd a n) s = .next { s with reply := some data } ∧ data.length = n ∧
      ∀ k, k < n → data.getD k 0 = s.output.read (a + k)) ∧
  (∀ (s : State) (a : Nat) (data : List Byte), s.cfg.Legal → s.input.wf = true → s.cfg.inPixelWindow a data.length →
    s.ctrl ≠ .processing →
      decode s.cfg (.transaction (.write a data)) = .instr (.pixWr a data) ∧
      ∃ t, exec (.pixWr a data) s = .next t ∧ t = { s with input := t.input, reply := some [] } ∧
        ∀ i, t.input.read i = if a ≤ i ∧ i < a + data.length then data.getD (i - a) 0 else s.input.read i)

/-- Rule R81, U9, D28: a pixel write during PROCESSING is refused by the model, as the rule says. -/
def Obligations.PixelWriteDuringProcessingIsRefused : Prop :=
  ∀ (s : State) (a : Nat) (data : List Byte), s.ctrl = .processing →
    exec (.pixWr a data) s = .refused .pixelWriteDuringProcessing

/-- Rule R22: `output` is written only by the completion event, and by it only on success, and it is read only by a pixel
read: a step of a device with another `output` differs in `output` and, for a pixel read, in the answer, and in nothing
else. -/
def Obligations.OutputIsTheEnginesToWriteAndTheBusToRead : Prop :=
  (∀ (s t : State), step s = .next t → t.output ≠ s.output →
    (s.ctrl = .armed ∨ s.ctrl = .processing) ∧ t.ctrl = .done ∧ ∀ tr rest, s.events ≠ .bus tr :: rest) ∧
  (∀ (s t : State) (m : Memory), step s = .next t →
    ∃ u, step { s with output := m } = .next u ∧
      u = { t with output := u.output, reply := u.reply } ∧ (u.output = m ∨ u.output = t.output) ∧
      ((∀ a n rest, s.events = .bus (.read a n) :: rest → s.cfg.controlBase ≤ a) → u.reply = t.reply))

/-- Rule R21: `input` is written only by a pixel write and read only by the engine at the completion event: a device with
another `input` takes the same step, the answer included, whenever a transaction is delivered, in every controller state,
and whenever the step ends no operation. -/
def Obligations.InputIsTheBusToWriteAndTheEnginesToRead : Prop :=
  (∀ (s t : State), step s = .next t → t.input ≠ s.input →
    ∃ a data rest, s.events = .bus (.write a data) :: rest ∧ s.cfg.inPixelWindow a data.length) ∧
  (∀ (s t : State) (m : Memory), step s = .next t →
    (∃ tr rest, s.events = .bus tr :: rest) ∨
      ¬ ((s.ctrl = .armed ∨ s.ctrl = .processing) ∧ (t.ctrl = .done ∨ t.ctrl = .error)) →
    ∃ u, step { s with input := m } = .next u ∧ u = { t with input := u.input })

/-- Rules R117, R121: the end state, the status and the image of a completion, with the atomic profile, depend on the
descriptor less its colour format and on `input`, not on any register, nor on the previous output. What the completion
reads of `control.IRQ_ENABLE` (rules R55, R175) shows in the interrupt log, of which nothing is said here; FINISH of the
split profile is that of SplitProfileDoesWhatTheAtomicEventDoes and FinishIsTheSelectedOperation. That `color_format`,
`src_addr` and `dst_addr` have no effect is D12's and D7's. -/
def Obligations.EndStateStatusAndImageComeFromDescriptorAndInput : Prop :=
  ∀ (s u t t' : State) (d : Descriptor) (fmt : Word), s.ctrl = .armed → s.desc = some d →
    s.cfg.processingAtomic = true →
    u.ctrl = .armed → u.desc = some { d with colorFormat := fmt } → u.cfg = s.cfg → u.input = s.input →
    exec .complete s = .next t → exec .complete u = .next t' →
      t'.ctrl = t.ctrl ∧ t'.regs.status = t.regs.status ∧
      (t.ctrl = .done → t'.output = t.output ∧ t'.outW = t.outW ∧ t'.outH = t.outH)

/-! ### The invariant -/

/-- Rules R30, R32: the state after reset satisfies the invariant. The reset values are log entry 3's, from D30. -/
def Obligations.ResetSatisfiesTheInvariant : Prop := Inv State.reset

/-- Rule R32: construction with any legal parameters and any legal open reset values gives the fixed values, keeps the open
ones, and satisfies the invariant. The fixed values are D30's. -/
def Obligations.EveryConstructionSatisfiesTheInvariant : Prop :=
  ∀ (c : Config) (r : ResetValues), c.Legal → r.Legal c →
    Inv (State.construct c r) ∧
    (State.construct c r).regs.control = 0 ∧ (State.construct c r).regs.status = 0 ∧
    (State.construct c r).ctrl = .idle ∧ (State.construct c r).desc = none ∧ (State.construct c r).pending = none ∧
    (State.construct c r).irqLog = [] ∧ (State.construct c r).fatal = none ∧
    (State.construct c r).regs.srcAddr = r.srcAddr ∧ (State.construct c r).regs.dstAddr = r.dstAddr ∧
    (State.construct c r).regs.width = r.width ∧ (State.construct c r).regs.height = r.height ∧
    (State.construct c r).regs.operation = r.operation ∧ (State.construct c r).regs.scaleFactor = r.scaleFactor ∧
    (State.construct c r).regs.rotationAngle = r.rotationAngle ∧
    (State.construct c r).regs.colorFormat = r.colorFormat ∧
    (State.construct c r).input = r.input ∧ (State.construct c r).output = r.output ∧
    (State.construct c r).outW = r.outW ∧ (State.construct c r).outH = r.outH

/-- Rule R30: every step keeps the invariant, items (a) to (g), with the buffers canonical and in bounds. -/
def Obligations.EveryStepKeepsTheInvariant : Prop :=
  ∀ (s t : State), Inv s → step s = .next t → Inv t

/-! ### Operations -/

/-- Rules R110, R120, R174: what a row `OP.*` does, for every operation, on all operands and in all controller states. In
PROCESSING it ends in ERROR with the output fields as they were for a zero dimension, a colour operation without three
channels (D24) or a result that does not fit (D18), and in DONE otherwise. That a result of zero area is DONE too is D17's,
where U5 lets a model refuse it (log entry 16). In any other state it changes nothing, nor does COMPLETE at rest, since the
transition table has no such event, which is log entry 9's reading. -/
def Obligations.OperationsEndInDoneOrForTheTabledCausesInError : Prop :=
  ∀ (s : State) (op : Operation) (w h : Word),
    (s.ctrl ≠ .processing → exec (op.toInstr w h) s = .next s) ∧
    (AtRest s → exec .complete s = .next s) ∧
    (s.ctrl = .processing →
      ((w = 0 ∨ h = 0 ∨ (s.cfg.channels ≠ 3 ∧ (op = .rgbToYuv ∨ op = .yuvToRgb)) ∨
          s.cfg.frameBufferSize <
            (outDims s.cfg w.toNat h.toNat op).1 * (outDims s.cfg w.toNat h.toNat op).2 * s.cfg.channels) →
        ∃ t, exec (op.toInstr w h) s = .next t ∧ EndedInError s t) ∧
      (¬ (w = 0 ∨ h = 0 ∨ (s.cfg.channels ≠ 3 ∧ (op = .rgbToYuv ∨ op = .yuvToRgb)) ∨
          s.cfg.frameBufferSize <
            (outDims s.cfg w.toNat h.toNat op).1 * (outDims s.cfg w.toNat h.toNat op).2 * s.cfg.channels) →
        ∃ t, exec (op.toInstr w h) s = .next t ∧ EndedIn .done s t ∧
          t.outW = (outDims s.cfg w.toNat h.toNat op).1 ∧ t.outH = (outDims s.cfg w.toNat h.toNat op).2))

/-! ### Scale -/

/-- Rules R130, R131: the scaled image. Destination pixel `(x, y)` copies source pixel `(floor(x/f), floor(y/f))`, with
`f = s / SCALE_ONE`, and keeps 0 where that is outside the image. The exact arithmetic and the rounding of ties in the
dimensions are D16's, and that a result that does not fit is a fault is D18's. That an image of zero area is DONE (rule R133)
is D17's, where U5 lets a model refuse it (log entry 16). -/
def Obligations.ScaleCopiesTheNearestSource : Prop :=
  ∀ (s : State) (w h f : Word), s.ctrl = .processing → w ≠ 0 → h ≠ 0 →
    ((2 * w.toNat * f.toNat + s.cfg.scaleOne) / (2 * s.cfg.scaleOne) *
        ((2 * h.toNat * f.toNat + s.cfg.scaleOne) / (2 * s.cfg.scaleOne)) * s.cfg.channels ≤ s.cfg.frameBufferSize →
      ∃ t, exec (.opScale w h f) s = .next t ∧ EndedIn .done s t ∧
        HoldsImage t ((2 * w.toNat * f.toNat + s.cfg.scaleOne) / (2 * s.cfg.scaleOne))
          ((2 * h.toNat * f.toNat + s.cfg.scaleOne) / (2 * s.cfg.scaleOne))
          (fun x y c =>
            if x * s.cfg.scaleOne / f.toNat < w.toNat ∧ y * s.cfg.scaleOne / f.toNat < h.toNat then
              inputPixel s w.toNat (x * s.cfg.scaleOne / f.toNat) (y * s.cfg.scaleOne / f.toNat) c
            else 0)) ∧
    (s.cfg.frameBufferSize < (2 * w.toNat * f.toNat + s.cfg.scaleOne) / (2 * s.cfg.scaleOne) *
        ((2 * h.toNat * f.toNat + s.cfg.scaleOne) / (2 * s.cfg.scaleOne)) * s.cfg.channels →
      ∃ t, exec (.opScale w h f) s = .next t ∧ EndedInError s t)

/-- Rule R134: every destination column has a source column inside the image, so no pixel keeps the default 0. -/
def Obligations.ScaleSourceIsInTheImage : Prop :=
  ∀ (c : Config) (n f x : Nat), 1 ≤ c.scaleOne → 1 ≤ f → x < scaledSize c n f → scaleSource c f x < n

/-- Rule R132: scaling by factor 1.0 gives the input image, byte for byte. The exact arithmetic is D16's. -/
def Obligations.ScaleByOneIsTheIdentity : Prop :=
  ∀ (s : State) (w h f : Word), s.cfg.Legal → s.ctrl = .processing → w ≠ 0 → h ≠ 0 → w.toNat ≤ s.cfg.maxWidth →
    h.toNat ≤ s.cfg.maxHeight → f.toNat = s.cfg.scaleOne →
      ∃ t, exec (.opScale w h f) s = .next t ∧ EndedIn .done s t ∧ t.outW = w.toNat ∧ t.outH = h.toNat ∧
        ∀ k, k < w.toNat * h.toNat * s.cfg.channels → t.output.read k = s.input.read k

/-! ### Rotate -/

/-- Rule R141: rotation by 0° copies the input image byte for byte. That 0° takes the fast path is D15's. -/
def Obligations.RotateByZeroIsTheIdentity : Prop :=
  ∀ (s : State) (w h : Word), s.ctrl = .processing → w ≠ 0 → h ≠ 0 → w.toNat ≤ s.cfg.maxWidth →
    h.toNat ≤ s.cfg.maxHeight →
      ∃ t, exec (.opRotate0 w h) s = .next t ∧ EndedIn .done s t ∧ t.outW = w.toNat ∧ t.outH = h.toNat ∧
        ∀ k, k < w.toNat * h.toNat * s.cfg.channels → t.output.read k = s.input.read k

/-- Rule R142: a quarter turn clockwise swaps the dimensions and sends input pixel `(x, y)` to output pixel
`(h-1-y, x)`, a bijection of the pixels; it cannot fail on an image within the maximum dimensions. -/
def Obligations.RotateByNinetyPermutesThePixels : Prop :=
  ∀ (s : State) (w h : Word), s.ctrl = .processing → w ≠ 0 → h ≠ 0 → w.toNat ≤ s.cfg.maxWidth →
    h.toNat ≤ s.cfg.maxHeight →
      ∃ t, exec (.opRotate90 w h) s = .next t ∧ EndedIn .done s t ∧ t.outW = h.toNat ∧ t.outH = w.toNat ∧
        (∀ x y c, x < w.toNat → y < h.toNat → c < s.cfg.channels →
          t.output.read (pixelIndex s.cfg.channels h.toNat (h.toNat - 1 - y) x c) = inputPixel s w.toNat x y c) ∧
        (∀ x y c, x < h.toNat → y < w.toNat → c < s.cfg.channels →
          t.output.read (pixelIndex s.cfg.channels h.toNat x y c) = inputPixel s w.toNat y (h.toNat - 1 - x) c)

/-- Rule R143: a half turn keeps the dimensions and sends input pixel `(x, y)` to `(w-1-x, h-1-y)`. The permutation is
D20's. -/
def Obligations.RotateByHalfTurnMirrorsThePixels : Prop :=
  ∀ (s : State) (w h : Word), s.ctrl = .processing → w ≠ 0 → h ≠ 0 → w.toNat ≤ s.cfg.maxWidth →
    h.toNat ≤ s.cfg.maxHeight →
      ∃ t, exec (.opRotate180 w h) s = .next t ∧ EndedIn .done s t ∧ t.outW = w.toNat ∧ t.outH = h.toNat ∧
        ∀ x y c, x < w.toNat → y < h.toNat → c < s.cfg.channels →
          t.output.read (pixelIndex s.cfg.channels w.toNat (w.toNat - 1 - x) (h.toNat - 1 - y) c) =
            inputPixel s w.toNat x y c

/-- Rule R144: three quarter turns swap the dimensions and send input pixel `(x, y)` to `(y, w-1-x)`. The permutation is
D20's. -/
def Obligations.RotateByThreeQuartersPermutesThePixels : Prop :=
  ∀ (s : State) (w h : Word), s.ctrl = .processing → w ≠ 0 → h ≠ 0 → w.toNat ≤ s.cfg.maxWidth →
    h.toNat ≤ s.cfg.maxHeight →
      ∃ t, exec (.opRotate270 w h) s = .next t ∧ EndedIn .done s t ∧ t.outW = h.toNat ∧ t.outH = w.toNat ∧
        ∀ x y c, x < w.toNat → y < h.toNat → c < s.cfg.channels →
          t.output.read (pixelIndex s.cfg.channels h.toNat y (w.toNat - 1 - x) c) = inputPixel s w.toNat x y c

/-- Rule R148: 90° and then 270° gives the original image, as do 270° and then 90°, and 180° twice. Each second operation
runs on a device whose input image is the first one's output, as after a download and an upload. The permutations are
D20's. -/
def Obligations.QuarterTurnsRoundTrip : Prop :=
  ∀ (s : State) (w h : Word) (i j : Word → Word → Instr) (swap : Bool),
    s.ctrl = .processing → w ≠ 0 → h ≠ 0 → w.toNat ≤ s.cfg.maxWidth → h.toNat ≤ s.cfg.maxHeight →
    (i = .opRotate90 ∧ j = .opRotate270 ∧ swap = true ∨ i = .opRotate270 ∧ j = .opRotate90 ∧ swap = true ∨
      i = .opRotate180 ∧ j = .opRotate180 ∧ swap = false) →
    ∃ t, exec (i w h) s = .next t ∧
      ∀ u : State, u.cfg = s.cfg → u.ctrl = .processing →
        (∀ k, k < w.toNat * h.toNat * s.cfg.channels → u.input.read k = t.output.read k) →
        ∃ v, exec (if swap then j h w else j w h) u = .next v ∧ v.ctrl = .done ∧ v.outW = w.toNat ∧
          v.outH = h.toNat ∧
          ∀ k, k < w.toNat * h.toNat * s.cfg.channels → v.output.read k = s.input.read k

/-- Rule R148: 90° twice gives what 180° gives. The permutations are D20's. -/
def Obligations.TwoQuarterTurnsAreAHalfTurn : Prop :=
  ∀ (s : State) (w h : Word),
    s.ctrl = .processing → w ≠ 0 → h ≠ 0 → w.toNat ≤ s.cfg.maxWidth → h.toNat ≤ s.cfg.maxHeight →
    ∃ t r, exec (.opRotate90 w h) s = .next t ∧ exec (.opRotate180 w h) s = .next r ∧ r.ctrl = .done ∧
      ∀ u : State, u.cfg = s.cfg → u.ctrl = .processing →
        (∀ k, k < w.toNat * h.toNat * s.cfg.channels → u.input.read k = t.output.read k) →
        ∃ v, exec (.opRotate90 h w) u = .next v ∧ v.ctrl = .done ∧ v.outW = r.outW ∧ v.outH = r.outH ∧
          ∀ k, k < w.toNat * h.toNat * s.cfg.channels → v.output.read k = r.output.read k

/-- Rule R147 (P1 to P3), for both ways of holding the general path: on a canvas that fits, every pixel is `FILL` in every
channel or a copy of one input pixel, and a canvas that does not fit is a fault. The canvas is that of `generalCanvas`; no
size and no byte of it is claimed. The properties are D21's reading, and the test of size is D18's. That a canvas of zero
area, which the free function may give, is DONE is log entry 16's reading of D17. -/
def Obligations.GeneralRotationFillsOrCopies : Prop :=
  ∀ (s : State) (w h : Word) (angle ow oh : Nat), s.ctrl = .processing → w ≠ 0 → h ≠ 0 →
    generalCanvas s.cfg w.toNat h.toNat angle = (ow, oh) →
      (ow * oh * s.cfg.channels ≤ s.cfg.frameBufferSize →
        ∃ t, exec (.opRotateGen w h angle) s = .next t ∧ EndedIn .done s t ∧ t.outW = ow ∧ t.outH = oh ∧
          ∀ x y, x < ow → y < oh →
            (∀ c, c < s.cfg.channels → t.output.read (pixelIndex s.cfg.channels ow x y c) = s.cfg.fill) ∨
            ∃ sx sy, sx < w.toNat ∧ sy < h.toNat ∧ ∀ c, c < s.cfg.channels →
              t.output.read (pixelIndex s.cfg.channels ow x y c) = inputPixel s w.toNat sx sy c) ∧
      (s.cfg.frameBufferSize < ow * oh * s.cfg.channels →
        ∃ t, exec (.opRotateGen w h angle) s = .next t ∧ EndedInError s t)

/-- Vector V43, rules R145 and R146: a 3 by 3 image at 45° under the ideal instantiation, which is D21's, with
`ROT_MARGIN` = 0. It names the instantiation, as U1 asks. -/
def Obligations.IdealRotationOfTheThreeByThreeVector : Prop :=
  idealCanvas Config.standard 3 3 45 = (4, 4) ∧
  rotateGenBytes { Config.standard with channels := 1, rotProfile := .ideal } 3 3 45
      [10, 20, 30, 40, 50, 60, 70, 80, 90] =
    [255, 255, 10, 255, 255, 40, 10, 20, 70, 70, 50, 30, 255, 80, 90, 60]

/-! ### Colour spaces -/

/-- Rules R160, R161: RGB to YUV, pixel by pixel, in exact decimal arithmetic truncated (D16), on three-channel devices;
the byte order in a pixel is D22's. -/
def Obligations.RgbToYuvConvertsEachPixel : Prop :=
  ∀ (s : State) (w h : Word), s.ctrl = .processing → w ≠ 0 → h ≠ 0 → w.toNat ≤ s.cfg.maxWidth →
    h.toNat ≤ s.cfg.maxHeight → s.cfg.channels = 3 →
      ∃ t, exec (.opRgbToYuv w h) s = .next t ∧ EndedIn .done s t ∧ t.outW = w.toNat ∧ t.outH = h.toNat ∧
        ∀ x y, x < w.toNat → y < h.toNat →
          ∃ r g b : Int,
            r = (inputPixel s w.toNat x y 0).toNat ∧ g = (inputPixel s w.toNat x y 1).toNat ∧
            b = (inputPixel s w.toNat x y 2).toNat ∧
            ((t.output.read (pixelIndex 3 w.toNat x y 0)).toNat : Int) = (299 * r + 587 * g + 114 * b) / 1000 ∧
            ((t.output.read (pixelIndex 3 w.toNat x y 1)).toNat : Int) =
              (-169 * r - 331 * g + 500 * b + 128000) / 1000 ∧
            ((t.output.read (pixelIndex 3 w.toNat x y 2)).toNat : Int) =
              (500 * r - 419 * g - 81 * b + 128000) / 1000

/-- Rules R160, R162: YUV to RGB, pixel by pixel: the exact value clamped to a byte and truncated, which is D23's. -/
def Obligations.YuvToRgbConvertsEachPixel : Prop :=
  ∀ (s : State) (w h : Word), s.ctrl = .processing → w ≠ 0 → h ≠ 0 → w.toNat ≤ s.cfg.maxWidth →
    h.toNat ≤ s.cfg.maxHeight → s.cfg.channels = 3 →
      ∃ t, exec (.opYuvToRgb w h) s = .next t ∧ EndedIn .done s t ∧ t.outW = w.toNat ∧ t.outH = h.toNat ∧
        ∀ x y, x < w.toNat → y < h.toNat →
          ∃ lu u v : Int,
            lu = (inputPixel s w.toNat x y 0).toNat ∧ u = (inputPixel s w.toNat x y 1).toNat ∧
            v = (inputPixel s w.toNat x y 2).toNat ∧
            ((t.output.read (pixelIndex 3 w.toNat x y 0)).toNat : Int) =
              max 0 (min 255 ((10000 * lu + 14075 * (v - 128)) / 10000)) ∧
            ((t.output.read (pixelIndex 3 w.toNat x y 1)).toNat : Int) =
              max 0 (min 255 ((10000 * lu - 3455 * (u - 128) - 7169 * (v - 128)) / 10000)) ∧
            ((t.output.read (pixelIndex 3 w.toNat x y 2)).toNat : Int) =
              max 0 (min 255 ((10000 * lu + 17790 * (u - 128)) / 10000))

/-- Rules R163, R165: on a device without three channels a colour operation ends in ERROR, which is D24's. -/
def Obligations.ColourOperationsNeedThreeChannels : Prop :=
  ∀ (s : State) (w h : Word), s.ctrl = .processing → s.cfg.channels ≠ 3 →
    (∃ t, exec (.opRgbToYuv w h) s = .next t ∧ EndedInError s t) ∧
    (∃ t, exec (.opYuvToRgb w h) s = .next t ∧ EndedInError s t)

/-- Rule R164: the error of RGB to YUV and back, over every pixel: in [-4, 0] on R and B and in [-2, 1] on G, and greys come
back exactly. -/
def Obligations.ColourRoundTripErrorIsBounded : Prop :=
  ∀ r g b : Byte,
    (-4 ≤ ((redOf (lumaOf r g b) (chromaVOf r g b)).toNat : Int) - r.toNat ∧
      ((redOf (lumaOf r g b) (chromaVOf r g b)).toNat : Int) - r.toNat ≤ 0) ∧
    (-2 ≤ ((greenOf (lumaOf r g b) (chromaUOf r g b) (chromaVOf r g b)).toNat : Int) - g.toNat ∧
      ((greenOf (lumaOf r g b) (chromaUOf r g b) (chromaVOf r g b)).toNat : Int) - g.toNat ≤ 1) ∧
    (-4 ≤ ((blueOf (lumaOf r g b) (chromaUOf r g b)).toNat : Int) - b.toNat ∧
      ((blueOf (lumaOf r g b) (chromaUOf r g b)).toNat : Int) - b.toNat ≤ 0) ∧
    (r = g ∧ g = b →
      redOf (lumaOf r g b) (chromaVOf r g b) = r ∧
      greenOf (lumaOf r g b) (chromaUOf r g b) (chromaVOf r g b) = g ∧
      blueOf (lumaOf r g b) (chromaUOf r g b) = b)
end

