-- ==== Sys2Proof/Laws/State.lean ====
section
/-! SUPPORT. One lemma a field for each operation that updates the state, so that no later proof unfolds a record
update. -/

namespace Sys2Proof.Machine

/-! ### `answer` -/

@[simp] theorem answer_regs (data : List Byte) (s : State) : (answer data s).regs = s.regs := rfl
@[simp] theorem answer_input (data : List Byte) (s : State) : (answer data s).input = s.input := rfl
@[simp] theorem answer_output (data : List Byte) (s : State) : (answer data s).output = s.output := rfl
@[simp] theorem answer_outW (data : List Byte) (s : State) : (answer data s).outW = s.outW := rfl
@[simp] theorem answer_outH (data : List Byte) (s : State) : (answer data s).outH = s.outH := rfl
@[simp] theorem answer_ctrl (data : List Byte) (s : State) : (answer data s).ctrl = s.ctrl := rfl
@[simp] theorem answer_desc (data : List Byte) (s : State) : (answer data s).desc = s.desc := rfl
@[simp] theorem answer_pending (data : List Byte) (s : State) : (answer data s).pending = s.pending := rfl
@[simp] theorem answer_irqLog (data : List Byte) (s : State) : (answer data s).irqLog = s.irqLog := rfl
@[simp] theorem answer_fatal (data : List Byte) (s : State) : (answer data s).fatal = s.fatal := rfl
@[simp] theorem answer_cfg (data : List Byte) (s : State) : (answer data s).cfg = s.cfg := rfl
@[simp] theorem answer_now (data : List Byte) (s : State) : (answer data s).now = s.now := rfl
@[simp] theorem answer_events (data : List Byte) (s : State) : (answer data s).events = s.events := rfl
@[simp] theorem answer_reply (data : List Byte) (s : State) : (answer data s).reply = some data := rfl

/-! ### `takeViolation` -/

@[simp] theorem takeViolation_regs (r : FatalReason) (s : State) : (takeViolation r s).regs = s.regs := rfl
@[simp] theorem takeViolation_input (r : FatalReason) (s : State) : (takeViolation r s).input = s.input := rfl
@[simp] theorem takeViolation_output (r : FatalReason) (s : State) : (takeViolation r s).output = s.output := rfl
@[simp] theorem takeViolation_outW (r : FatalReason) (s : State) : (takeViolation r s).outW = s.outW := rfl
@[simp] theorem takeViolation_outH (r : FatalReason) (s : State) : (takeViolation r s).outH = s.outH := rfl
@[simp] theorem takeViolation_ctrl (r : FatalReason) (s : State) : (takeViolation r s).ctrl = s.ctrl := rfl
@[simp] theorem takeViolation_desc (r : FatalReason) (s : State) : (takeViolation r s).desc = s.desc := rfl
@[simp] theorem takeViolation_pending (r : FatalReason) (s : State) : (takeViolation r s).pending = s.pending := rfl
@[simp] theorem takeViolation_irqLog (r : FatalReason) (s : State) : (takeViolation r s).irqLog = s.irqLog := rfl
@[simp] theorem takeViolation_fatal (r : FatalReason) (s : State) : (takeViolation r s).fatal = some r := rfl
@[simp] theorem takeViolation_cfg (r : FatalReason) (s : State) : (takeViolation r s).cfg = s.cfg := rfl
@[simp] theorem takeViolation_now (r : FatalReason) (s : State) : (takeViolation r s).now = s.now := rfl
@[simp] theorem takeViolation_events (r : FatalReason) (s : State) : (takeViolation r s).events = s.events := rfl
@[simp] theorem takeViolation_reply (r : FatalReason) (s : State) : (takeViolation r s).reply = none := rfl

/-! ### `arm` -/

@[simp] theorem arm_regs (s : State) : (arm s).regs = { s.regs with status := 0 } := rfl
@[simp] theorem arm_input (s : State) : (arm s).input = s.input := rfl
@[simp] theorem arm_output (s : State) : (arm s).output = s.output := rfl
@[simp] theorem arm_outW (s : State) : (arm s).outW = s.outW := rfl
@[simp] theorem arm_outH (s : State) : (arm s).outH = s.outH := rfl
@[simp] theorem arm_ctrl (s : State) : (arm s).ctrl = .armed := rfl
@[simp] theorem arm_desc (s : State) : (arm s).desc = some s.regs.snapshot := rfl
@[simp] theorem arm_pending (s : State) : (arm s).pending = some (s.now + s.cfg.processingDelay) := rfl
@[simp] theorem arm_irqLog (s : State) : (arm s).irqLog = s.irqLog := rfl
@[simp] theorem arm_fatal (s : State) : (arm s).fatal = s.fatal := rfl
@[simp] theorem arm_cfg (s : State) : (arm s).cfg = s.cfg := rfl
@[simp] theorem arm_now (s : State) : (arm s).now = s.now := rfl
@[simp] theorem arm_events (s : State) : (arm s).events = s.events := rfl
@[simp] theorem arm_reply (s : State) : (arm s).reply = s.reply := rfl

/-! ### `beginProcessing` -/

@[simp] theorem beginProcessing_regs (s : State) :
    (beginProcessing s).regs = { s.regs with control := clearStart s.cfg s.regs.control, status := statusOf s.cfg .processing } :=
  rfl
@[simp] theorem beginProcessing_input (s : State) : (beginProcessing s).input = s.input := rfl
@[simp] theorem beginProcessing_output (s : State) : (beginProcessing s).output = s.output := rfl
@[simp] theorem beginProcessing_outW (s : State) : (beginProcessing s).outW = s.outW := rfl
@[simp] theorem beginProcessing_outH (s : State) : (beginProcessing s).outH = s.outH := rfl
@[simp] theorem beginProcessing_ctrl (s : State) : (beginProcessing s).ctrl = .processing := rfl
@[simp] theorem beginProcessing_desc (s : State) : (beginProcessing s).desc = s.desc := rfl
@[simp] theorem beginProcessing_pending (s : State) : (beginProcessing s).pending = none := rfl
@[simp] theorem beginProcessing_irqLog (s : State) : (beginProcessing s).irqLog = s.irqLog := rfl
@[simp] theorem beginProcessing_fatal (s : State) : (beginProcessing s).fatal = s.fatal := rfl
@[simp] theorem beginProcessing_cfg (s : State) : (beginProcessing s).cfg = s.cfg := rfl
@[simp] theorem beginProcessing_now (s : State) : (beginProcessing s).now = s.now := rfl
@[simp] theorem beginProcessing_events (s : State) : (beginProcessing s).events = s.events := rfl
@[simp] theorem beginProcessing_reply (s : State) : (beginProcessing s).reply = s.reply := rfl

/-! ### `commit` -/

@[simp] theorem commit_regs (img : Image) (s : State) : (commit img s).regs = s.regs := rfl
@[simp] theorem commit_input (img : Image) (s : State) : (commit img s).input = s.input := rfl
@[simp] theorem commit_output (img : Image) (s : State) : (commit img s).output = Memory.ofBytes img.bytes := rfl
@[simp] theorem commit_outW (img : Image) (s : State) : (commit img s).outW = img.w := rfl
@[simp] theorem commit_outH (img : Image) (s : State) : (commit img s).outH = img.h := rfl
@[simp] theorem commit_ctrl (img : Image) (s : State) : (commit img s).ctrl = s.ctrl := rfl
@[simp] theorem commit_desc (img : Image) (s : State) : (commit img s).desc = s.desc := rfl
@[simp] theorem commit_pending (img : Image) (s : State) : (commit img s).pending = s.pending := rfl
@[simp] theorem commit_irqLog (img : Image) (s : State) : (commit img s).irqLog = s.irqLog := rfl
@[simp] theorem commit_fatal (img : Image) (s : State) : (commit img s).fatal = s.fatal := rfl
@[simp] theorem commit_cfg (img : Image) (s : State) : (commit img s).cfg = s.cfg := rfl
@[simp] theorem commit_now (img : Image) (s : State) : (commit img s).now = s.now := rfl
@[simp] theorem commit_events (img : Image) (s : State) : (commit img s).events = s.events := rfl
@[simp] theorem commit_reply (img : Image) (s : State) : (commit img s).reply = s.reply := rfl

/-! ### `settle` -/

@[simp] theorem settle_regs (c : CtrlState) (s : State) :
    (settle c s).regs = { s.regs with status := statusOf s.cfg c } :=
  rfl
@[simp] theorem settle_input (c : CtrlState) (s : State) : (settle c s).input = s.input := rfl
@[simp] theorem settle_output (c : CtrlState) (s : State) : (settle c s).output = s.output := rfl
@[simp] theorem settle_outW (c : CtrlState) (s : State) : (settle c s).outW = s.outW := rfl
@[simp] theorem settle_outH (c : CtrlState) (s : State) : (settle c s).outH = s.outH := rfl
@[simp] theorem settle_ctrl (c : CtrlState) (s : State) : (settle c s).ctrl = c := rfl
@[simp] theorem settle_desc (c : CtrlState) (s : State) : (settle c s).desc = none := rfl
@[simp] theorem settle_pending (c : CtrlState) (s : State) : (settle c s).pending = s.pending := rfl
@[simp] theorem settle_irqLog (c : CtrlState) (s : State) : (settle c s).irqLog = s.irqLog := rfl
@[simp] theorem settle_fatal (c : CtrlState) (s : State) : (settle c s).fatal = s.fatal := rfl
@[simp] theorem settle_cfg (c : CtrlState) (s : State) : (settle c s).cfg = s.cfg := rfl
@[simp] theorem settle_now (c : CtrlState) (s : State) : (settle c s).now = s.now := rfl
@[simp] theorem settle_events (c : CtrlState) (s : State) : (settle c s).events = s.events := rfl
@[simp] theorem settle_reply (c : CtrlState) (s : State) : (settle c s).reply = s.reply := rfl

/-! ### `raiseInterrupt` -/

@[simp] theorem raiseInterrupt_regs (s : State) : (raiseInterrupt s).regs = s.regs := rfl
@[simp] theorem raiseInterrupt_input (s : State) : (raiseInterrupt s).input = s.input := rfl
@[simp] theorem raiseInterrupt_output (s : State) : (raiseInterrupt s).output = s.output := rfl
@[simp] theorem raiseInterrupt_outW (s : State) : (raiseInterrupt s).outW = s.outW := rfl
@[simp] theorem raiseInterrupt_outH (s : State) : (raiseInterrupt s).outH = s.outH := rfl
@[simp] theorem raiseInterrupt_ctrl (s : State) : (raiseInterrupt s).ctrl = s.ctrl := rfl
@[simp] theorem raiseInterrupt_desc (s : State) : (raiseInterrupt s).desc = s.desc := rfl
@[simp] theorem raiseInterrupt_pending (s : State) : (raiseInterrupt s).pending = s.pending := rfl
@[simp] theorem raiseInterrupt_irqLog (s : State) :
    (raiseInterrupt s).irqLog = if irqEnableOf s.cfg s.regs.control then s.irqLog ++ [s.cfg.irqNumber] else s.irqLog :=
  rfl
@[simp] theorem raiseInterrupt_fatal (s : State) : (raiseInterrupt s).fatal = s.fatal := rfl
@[simp] theorem raiseInterrupt_cfg (s : State) : (raiseInterrupt s).cfg = s.cfg := rfl
@[simp] theorem raiseInterrupt_now (s : State) : (raiseInterrupt s).now = s.now := rfl
@[simp] theorem raiseInterrupt_events (s : State) : (raiseInterrupt s).events = s.events := rfl
@[simp] theorem raiseInterrupt_reply (s : State) : (raiseInterrupt s).reply = s.reply := rfl

/-! ### The register file -/

/-- A register reads as the value last set in it. -/
@[simp] theorem RegFile.get_set_self (f : RegFile) (v : Word) (r : Reg) : (f.set v r).get r = v := by cases r <;> rfl

/-- Setting a register leaves every other register as it was. -/
theorem RegFile.get_set_of_ne (f : RegFile) (v : Word) {r q : Reg} (h : q ≠ r) : (f.set v r).get q = f.get q := by
  cases r <;> cases q <;> first | rfl | exact absurd rfl h

/-! ### `readRegister` and `writeRegister` -/

/-- A register read changes nothing but the answer. -/
theorem readRegister_eq (r : Reg) (s : State) :
    readRegister r s = { s with reply := some (bytesLe32 (s.regs.get r)) } := rfl

/-- A write of a value the register accepts changes that register and the answer. -/
theorem writeRegister_accepted {r : Reg} {v : Word} {s : State} (h : accepts s.cfg v r = true) :
    writeRegister r v s = { s with regs := s.regs.set v r, reply := some [] } := by
  simp [writeRegister, answer, h]

/-- A write of any other value changes nothing but the answer (rule R173). -/
theorem writeRegister_rejected {r : Reg} {v : Word} {s : State} (h : accepts s.cfg v r = false) :
    writeRegister r v s = { s with reply := some [] } := by
  simp [writeRegister, answer, h]

end Sys2Proof.Machine
end

