-- ==== Sys2Proof/Laws/Bits.lean ====
section
/-! SUPPORT. The bits of `control` and `status`: what each operation on a word does to each field. -/

namespace Sys2Proof.Machine

theorem getLsbD_bit (k j : Nat) : (bit k).getLsbD j = (decide (j < 32) && decide (j = k)) := by
  simp only [bit, BitVec.getLsbD_shiftLeft, BitVec.getLsbD_one]
  by_cases h1 : j < 32 <;> by_cases h2 : j < k <;> by_cases h3 : j = k <;> simp [h1, h2, h3]
  all_goals omega

@[simp] theorem getElem_bit (k j : Nat) (h : j < 32) : (bit k)[j] = decide (j = k) := by
  rw [← BitVec.getLsbD_eq_getElem, getLsbD_bit]
  simp [h]

/-- The mask keeps the three defined bits and drops every other (rule R63). -/
theorem getLsbD_and_controlMask (c : Config) (v : Word) (j : Nat) :
    (v &&& controlMask c).getLsbD j =
      (v.getLsbD j && decide (j = c.ctrlEnableBit ∨ j = c.ctrlIrqEnableBit ∨ j = c.ctrlStartBit)) := by
  by_cases hj : j < 32
  · simp [controlMask, hj, Bool.or_assoc]
  · simp [BitVec.getLsbD_of_ge _ _ (Nat.le_of_not_lt hj)]

@[simp] theorem enableOf_masked (c : Config) (v : Word) : enableOf c (v &&& controlMask c) = enableOf c v := by
  rw [enableOf, getLsbD_and_controlMask]
  simp [enableOf]

@[simp] theorem irqEnableOf_masked (c : Config) (v : Word) :
    irqEnableOf c (v &&& controlMask c) = irqEnableOf c v := by
  rw [irqEnableOf, getLsbD_and_controlMask]
  simp [irqEnableOf]

@[simp] theorem startOf_masked (c : Config) (v : Word) : startOf c (v &&& controlMask c) = startOf c v := by
  rw [startOf, getLsbD_and_controlMask]
  simp [startOf]

theorem getLsbD_clearStart (c : Config) (v : Word) (j : Nat) :
    (clearStart c v).getLsbD j = (v.getLsbD j && !decide (j = c.ctrlStartBit)) := by
  by_cases hj : j < 32
  · simp [clearStart, hj]
  · simp [BitVec.getLsbD_of_ge _ _ (Nat.le_of_not_lt hj)]

@[simp] theorem startOf_clearStart (c : Config) (v : Word) : startOf c (clearStart c v) = false := by
  simp [startOf, getLsbD_clearStart]

theorem irqEnableOf_clearStart {c : Config} (h : c.Legal) (v : Word) :
    irqEnableOf c (clearStart c v) = irqEnableOf c v := by
  obtain ⟨-, -, -, -, ⟨-, -, -, -, -, hne⟩, -⟩ := h
  simp [irqEnableOf, getLsbD_clearStart, hne]

theorem enableOf_clearStart {c : Config} (h : c.Legal) (v : Word) :
    enableOf c (clearStart c v) = enableOf c v := by
  obtain ⟨-, -, -, -, ⟨-, -, -, -, hne, -⟩, -⟩ := h
  simp [enableOf, getLsbD_clearStart, hne]

/-- A masked value has no reserved bit. -/
theorem masked_reserved (c : Config) (v : Word) : (v &&& controlMask c) &&& ~~~ controlMask c = 0 := by
  rw [BitVec.and_assoc, BitVec.and_not_self]
  exact BitVec.and_zero

/-- Clearing `START` sets no reserved bit. -/
theorem clearStart_reserved {c : Config} {v : Word} (h : v &&& ~~~ controlMask c = 0) :
    clearStart c v &&& ~~~ controlMask c = 0 := by
  unfold clearStart
  rw [BitVec.and_assoc, BitVec.and_comm (~~~ bit _), ← BitVec.and_assoc, h]
  exact BitVec.zero_and

/-- `BUSY` is set in PROCESSING alone (rule R30 (b)). -/
theorem busyOf_statusOf {c : Config} (h : c.Legal) (st : CtrlState) :
    busyOf c (statusOf c st) = decide (st = .processing) := by
  obtain ⟨-, -, -, -, -, ⟨h1, -, -, h2, h3, -⟩, -⟩ := h
  cases st <;> simp [busyOf, statusOf, h1, h2, h3]

/-- `DONE` is set in DONE alone (rule R30 (c)). -/
theorem doneOf_statusOf {c : Config} (h : c.Legal) (st : CtrlState) :
    doneOf c (statusOf c st) = decide (st = .done) := by
  obtain ⟨-, -, -, -, -, ⟨-, h1, -, h2, -, h3⟩, -⟩ := h
  cases st <;> simp [doneOf, statusOf, h1, Ne.symm h2, h3]

/-- `ERROR` is set in ERROR alone (rule R30 (c)). -/
theorem errorOf_statusOf {c : Config} (h : c.Legal) (st : CtrlState) :
    errorOf c (statusOf c st) = decide (st = .error) := by
  obtain ⟨-, -, -, -, -, ⟨-, -, h1, -, h2, h3⟩, -⟩ := h
  cases st <;> simp [errorOf, statusOf, h1, Ne.symm h2, Ne.symm h3]

end Sys2Proof.Machine
end

