-- ==== Sys2Proof/Laws/Controller.lean ====
section
/-! SUPPORT. What the shared controller operations do, each said once. -/

namespace Sys2Proof.Machine

/-- During PROCESSING a control write is ignored whole (rule R116). -/
theorem writeControl_processing {v : Word} {s : State} (h : s.ctrl = .processing) : writeControl v s = s := by
  simp [writeControl, h]

/-- A trigger write in any other state arms the controller (rules R112, R113, R117). -/
theorem writeControl_trigger {v : Word} {s : State} (h : s.ctrl ≠ .processing) (hs : startOf s.cfg v = true) :
    writeControl v s =
      { s with
        regs := { s.regs with control := v &&& controlMask s.cfg, status := 0 }
        desc := some s.regs.snapshot
        pending := some (s.now + s.cfg.processingDelay)
        ctrl := .armed } := by
  have hc : ∀ p : State, (cancel p).cfg = p.cfg := by intro p; unfold cancel; split <;> rfl
  simp only [writeControl, h, if_false, startOf_masked, hs, if_true]
  unfold cancel
  split <;> rfl

/-- A control write with `START` = 0 in any other state stores the register and cancels an armed operation (rules R114,
R115). -/
theorem writeControl_plain {v : Word} {s : State} (h : s.ctrl ≠ .processing) (hs : startOf s.cfg v = false) :
    writeControl v s =
      { s with
        regs := { s.regs with control := v &&& controlMask s.cfg }
        desc := if s.ctrl = .armed then none else s.desc
        pending := none
        ctrl := if s.ctrl = .armed then .idle else s.ctrl } := by
  simp only [writeControl, h, if_false, startOf_masked, hs, Bool.false_eq_true]
  unfold cancel
  split <;> simp_all

/-- Finishing with an image (rules R119, R122, R123). -/
theorem finishWith_ok (img : Image) (s : State) :
    finishWith (.ok img) s =
      { s with
        output := Memory.ofBytes img.bytes
        outW := img.w
        outH := img.h
        regs := { s.regs with status := statusOf s.cfg .done }
        ctrl := .done
        desc := none
        irqLog := if irqEnableOf s.cfg s.regs.control then s.irqLog ++ [s.cfg.irqNumber] else s.irqLog } := rfl

/-- Finishing with a runtime transform fault (rules R119, R123, R174). -/
theorem finishWith_err (e : RunError) (s : State) :
    finishWith (.err e) s =
      { s with
        regs := { s.regs with status := statusOf s.cfg .error }
        ctrl := .error
        desc := none
        irqLog := if irqEnableOf s.cfg s.regs.control then s.irqLog ++ [s.cfg.irqNumber] else s.irqLog } := rfl

/-- What finishing changes, whatever the result: the three output fields, `status`, the controller state, the descriptor
and the interrupt log, and nothing else. -/
theorem finishWith_frame (r : RunResult) (s : State) :
    ∃ output outW outH ctrl,
      (ctrl = .done ∨ ctrl = .error) ∧
      finishWith r s =
        { s with
          output := output
          outW := outW
          outH := outH
          regs := { s.regs with status := statusOf s.cfg ctrl }
          ctrl := ctrl
          desc := none
          irqLog := if irqEnableOf s.cfg s.regs.control then s.irqLog ++ [s.cfg.irqNumber] else s.irqLog } := by
  cases r with
  | ok img => exact ⟨_, _, _, .done, .inl rfl, finishWith_ok img s⟩
  | err e => exact ⟨s.output, s.outW, s.outH, .error, .inr rfl, finishWith_err e s⟩

end Sys2Proof.Machine
end

