-- ==== Sys2Proof/Laws/Decode.lean ====
section
/-! SUPPORT. The tables of the decoder and the encoder, and what a decoded instruction looks like. -/

namespace Sys2Proof

/-- `le32` undoes `bytes_le32` (rule R8). -/
@[simp] theorem wordOfData_bytesLe32 (v : Word) : wordOfData (bytesLe32 v) = v := by
  apply BitVec.eq_of_toNat_eq
  simp only [wordOfData, bytesLe32, le32, BitVec.toNat_ofNat]
  have := v.isLt
  omega

/-- `bytes_le32` undoes `le32` (rule R8). -/
@[simp] theorem bytesLe32_le32 (b0 b1 b2 b3 : Byte) : bytesLe32 (le32 b0 b1 b2 b3) = [b0, b1, b2, b3] := by
  have h0 := b0.isLt
  have h1 := b1.isLt
  have h2 := b2.isLt
  have h3 := b3.isLt
  simp only [bytesLe32, le32, BitVec.toNat_ofNat, List.cons.injEq, and_true]
  refine ⟨?_, ?_, ?_, ?_⟩ <;> apply BitVec.eq_of_toNat_eq <;> simp only [BitVec.toNat_ofNat] <;> omega

@[simp] theorem bytesLe32_length (v : Word) : (bytesLe32 v).length = 4 := rfl

/-- Four bytes of data are those of the value they carry. -/
theorem bytesLe32_wordOfData {data : List Byte} (h : data.length = 4) : bytesLe32 (wordOfData data) = data := by
  match data, h with
  | [b0, b1, b2, b3], _ => exact bytesLe32_le32 b0 b1 b2 b3

@[simp] theorem Transaction.addr_atAddress (addr : Nat) (t : Transaction) : (t.atAddress addr).addr = addr := by
  cases t <;> rfl

@[simp] theorem Transaction.length_atAddress (addr : Nat) (t : Transaction) : (t.atAddress addr).length = t.length := by
  cases t <;> rfl

@[simp] theorem Transaction.atAddress_atAddress (a b : Nat) (t : Transaction) :
    (t.atAddress a).atAddress b = t.atAddress b := by
  cases t <;> rfl

@[simp] theorem Transaction.atAddress_addr (t : Transaction) : t.atAddress t.addr = t := by cases t <;> rfl

/-- The dispatcher gives back every device-local transaction from its global address (rule R6). -/
@[simp] theorem Transaction.deviceLocal_atAddress (c : Config) (t : Transaction) :
    (t.atAddress (c.deviceBase + t.addr)).deviceLocal c = some t := by
  simp [Transaction.deviceLocal]

@[simp] theorem Reg.ofOffset_offset (r : Reg) : Reg.ofOffset r.offset = some r := by cases r <;> rfl

/-- Each offset of the table belongs to one register (rule R62). -/
theorem Reg.offset_of_ofOffset {n : Nat} {r : Reg} (h : Reg.ofOffset n = some r) : r.offset = n := by
  unfold Reg.ofOffset at h
  split at h <;> simp_all [Reg.offset] <;> subst h <;> rfl

theorem normalAngle_lt (v : Word) : normalAngle v < 360 := by
  unfold normalAngle
  have h1 := Int.emod_nonneg v.toInt (b := 360) (by omega)
  have h2 := Int.emod_lt_of_pos v.toInt (b := 360) (by omega)
  omega

/-- A whole number of degrees below 360 is its own normalised angle. -/
theorem normalAngle_ofNat {an : Nat} (h : an < 360) : normalAngle (BitVec.ofNat 32 an) = an := by
  have h1 : (BitVec.ofNat 32 an).toInt = an := by
    rw [BitVec.toInt_eq_toNat_of_lt] <;> simp only [BitVec.toNat_ofNat] <;> omega
  unfold normalAngle
  rw [h1]
  omega

/-- The general path is taken by no multiple of 90 (P4 of rule R147). -/
theorem rotationOf_wellFormed (c : Config) (w h : Word) {an : Nat} (ha : an < 360) :
    ((rotationPath an).toInstr w h).wellFormed c = true := by
  unfold rotationPath
  split_ifs <;> simp_all [Operation.toInstr, Instr.wellFormed]
  omega

/-- Every instruction the decoder gives is well-formed. -/
theorem decode_wellFormed {c : Config} {code : Code} {i : Instr} (h : decode c code = .instr i) :
    i.wellFormed c = true := by
  cases code with
  | transaction t =>
    simp only [decode, decodeTransaction] at h
    split_ifs at h with h1 h2 h3 h4
    · split at h
      · next r _ =>
        simp only [Decoded.instr.injEq] at h
        subst h
        cases t <;> cases r <;> rfl
      · cases h
    · simp only [Decoded.instr.injEq] at h
      subst h
      cases t <;> simp_all [Transaction.onPixels, Transaction.addr, Transaction.length, Instr.wellFormed]
  | operation d =>
    simp only [decode] at h
    split at h
    · next op hop =>
      simp only [Decoded.instr.injEq] at h
      subst h
      unfold selectOperation at hop
      split_ifs at hop <;> simp only [Option.some.injEq] at hop <;> subst hop
      · rfl
      · exact rotationOf_wellFormed c _ _ (normalAngle_lt _)
      · rfl
      · rfl
    · cases h
  | completion =>
    simp only [decode, Decoded.instr.injEq] at h
    subst h
    rfl

end Sys2Proof
end

