-- ==== Sys2Proof/Laws/Memory.lean ====
section
/-! SUPPORT. The frame buffers: a read after a write, and the canonical form that every operation keeps. -/

namespace Sys2Proof.Machine

/-! ### Canonical lists: a strictly sorted list of non-zero cells -/

/-- The canonical form, with every index at least `lo`. -/
def Memory.wfFrom (lo : Nat) : Memory → Prop
  | [] => True
  | (a, v) :: rest => lo ≤ a ∧ v ≠ 0 ∧ Memory.wfFrom (a + 1) rest

/-- A canonical list stays canonical when its lower bound falls. -/
theorem Memory.wfFrom_mono {lo lo' : Nat} (h : lo' ≤ lo) : ∀ {m : Memory}, m.wfFrom lo → m.wfFrom lo'
  | [], _ => trivial
  | (_, _) :: _, ⟨h1, h2, h3⟩ => ⟨le_trans h h1, h2, h3⟩

/-- `Memory.wf` is the canonical form. -/
theorem Memory.wf_iff : ∀ m : Memory, m.wf = true ↔ m.wfFrom 0
  | [] => by simp [Memory.wf, Memory.wfFrom]
  | [(a, v)] => by simp [Memory.wf, Memory.wfFrom]
  | (a, v) :: (b, w) :: rest => by
    have ih := Memory.wf_iff ((b, w) :: rest)
    simp only [Memory.wf, Memory.wfFrom, Bool.and_eq_true, decide_eq_true_eq, ih]
    constructor
    · rintro ⟨⟨hv, hab⟩, -, hw, hr⟩
      exact ⟨Nat.zero_le _, hv, hab, hw, hr⟩
    · rintro ⟨-, hv, hab, hw, hr⟩
      exact ⟨⟨hv, hab⟩, Nat.zero_le _, hw, hr⟩

/-! ### One byte -/

/-- A read at an index below every listed one gives 0. -/
theorem Memory.read_below {i : Nat} : ∀ {m : Memory} {lo : Nat}, m.wfFrom lo → i < lo → m.read i = 0
  | [], _, _, _ => rfl
  | (a, v) :: rest, lo, ⟨h1, _, h3⟩, h => by
    have : i ≠ a := by omega
    simp only [Memory.read, this, if_false]
    exact Memory.read_below h3 (by omega)

/-- A read after a write: the byte written at its index, every other byte as it was. -/
theorem Memory.read_write {j : Nat} (i : Nat) (v : Byte) :
    ∀ {m : Memory} {lo : Nat}, m.wfFrom lo → (m.write i v).read j = if j = i then v else m.read j
  | [], _, _ => by
    simp only [Memory.write]
    split
    · next hv => simp [Memory.read, hv]
    · rfl
  | (a, w) :: rest, lo, ⟨h1, h2, h3⟩ => by
    simp only [Memory.write]
    by_cases hia : i < a
    · have hb : Memory.read ((a, w) :: rest) i = 0 :=
        Memory.read_below (lo := a) (show Memory.wfFrom a ((a, w) :: rest) from ⟨le_refl a, h2, h3⟩) hia
      by_cases hv : v = 0
      · simp only [hia, hv, if_true]
        split
        · next h => rw [h, hb]
        · rfl
      · simp only [hia, hv, if_true, if_false, Memory.read]
    · by_cases hea : i = a
      · subst hea
        have hr : Memory.read rest i = 0 := Memory.read_below h3 (Nat.lt_succ_self i)
        by_cases hv : v = 0
        · simp only [Nat.lt_irrefl, hv, if_true, if_false, Memory.read]
          split
          · next h => rw [h, hr]
          · rfl
        · simp only [Nat.lt_irrefl, hv, if_true, if_false, Memory.read]
          split <;> rfl
      · simp only [hia, hea, if_false, Memory.read, Memory.read_write i v h3]
        by_cases hja : j = a
        · have : j ≠ i := by omega
          simp [hja, Ne.symm hea]
        · simp [hja]

/-- A write keeps the canonical form. -/
theorem Memory.wfFrom_write (i : Nat) (v : Byte) :
    ∀ {m : Memory} {lo : Nat}, m.wfFrom lo → lo ≤ i → (m.write i v).wfFrom lo
  | [], _, _, hi => by
    simp only [Memory.write]
    split
    · trivial
    · next hv => exact ⟨hi, hv, trivial⟩
  | (a, w) :: rest, lo, ⟨h1, h2, h3⟩, hi => by
    simp only [Memory.write]
    by_cases hia : i < a
    · by_cases hv : v = 0
      · simp only [hia, hv, if_true]
        exact ⟨h1, h2, h3⟩
      · simp only [hia, hv, if_true, if_false]
        exact ⟨hi, hv, hia, h2, h3⟩
    · by_cases hea : i = a
      · subst hea
        by_cases hv : v = 0
        · simp only [Nat.lt_irrefl, hv, if_true, if_false]
          exact Memory.wfFrom_mono (by omega) h3
        · simp only [Nat.lt_irrefl, hv, if_true, if_false]
          exact ⟨hi, hv, h3⟩
      · simp only [hia, hea, if_false]
        exact ⟨h1, h2, Memory.wfFrom_write i v h3 (by omega)⟩

/-- A write below `n` keeps every listed index below `n`. -/
theorem Memory.within_write {n i : Nat} (v : Byte) (hi : i < n) :
    ∀ {m : Memory}, m.within n = true → (m.write i v).within n = true
  | [], _ => by
    simp only [Memory.write]
    split
    · rfl
    · simp [Memory.within, hi]
  | (a, w) :: rest, h => by
    have h' : a < n ∧ Memory.within n rest = true := by simpa [Memory.within] using h
    have ih := Memory.within_write v hi (m := rest) h'.2
    simp only [Memory.write]
    split
    · split
      · exact h
      · simpa [Memory.within, hi] using h
    · split
      · split
        · exact h'.2
        · simpa [Memory.within, hi] using h'.2
      · simpa [Memory.within, h'.1] using ih

/-! ### Runs of bytes -/

@[simp] theorem Memory.readBytes_length (m : Memory) (addr n : Nat) : (m.readBytes addr n).length = n := by
  simp [Memory.readBytes]

/-- Byte `k` of `MemRead(buf, addr, n)` is `buf[addr + k]`. -/
theorem Memory.readBytes_getD {m : Memory} {addr n k : Nat} (h : k < n) (d : Byte) :
    (m.readBytes addr n).getD k d = m.read (addr + k) := by
  simp [Memory.readBytes, List.getD, h]

/-- A write of several bytes keeps the canonical form. -/
theorem Memory.wfFrom_writeBytes :
    ∀ (data : List Byte) {m : Memory} {addr : Nat}, m.wfFrom 0 → (m.writeBytes addr data).wfFrom 0
  | [], _, _, h => h
  | v :: rest, _, addr, h => Memory.wfFrom_writeBytes rest (Memory.wfFrom_write addr v h (Nat.zero_le _))

/-- `MemWrite(buf, addr, n, bytes)`: byte `addr + k` becomes byte `k` of the data, every other byte is as it was. -/
theorem Memory.read_writeBytes :
    ∀ (data : List Byte) {m : Memory} {addr j : Nat}, m.wfFrom 0 →
      (m.writeBytes addr data).read j =
        if addr ≤ j ∧ j < addr + data.length then data.getD (j - addr) 0 else m.read j
  | [], m, addr, j, _ => by
    have : ¬ (addr ≤ j ∧ j < addr) := by omega
    simp [Memory.writeBytes, this]
  | v :: rest, m, addr, j, h => by
    have hw := Memory.wfFrom_write addr v h (Nat.zero_le _)
    simp only [Memory.writeBytes, Memory.read_writeBytes rest hw, Memory.read_write addr v h, List.length_cons]
    by_cases h1 : addr + 1 ≤ j ∧ j < addr + 1 + rest.length
    · have h2 : addr ≤ j ∧ j < addr + (rest.length + 1) := by omega
      have h3 : j - addr = (j - (addr + 1)) + 1 := by omega
      simp only [h1, h2, and_self, if_true, h3, List.getD_cons_succ]
    · simp only [h1, if_false]
      by_cases h2 : j = addr
      · subst h2
        simp
      · have h3 : ¬ (addr ≤ j ∧ j < addr + (rest.length + 1)) := by omega
        simp [h2, h3]

/-- A write of several bytes that end at or below `n` keeps every listed index below `n`. -/
theorem Memory.within_writeBytes {n : Nat} :
    ∀ (data : List Byte) {m : Memory} {addr : Nat}, addr + data.length ≤ n → m.within n = true →
      (m.writeBytes addr data).within n = true
  | [], _, _, _, h => h
  | v :: rest, _, addr, hn, h => by
    simp only [List.length_cons] at hn
    exact Memory.within_writeBytes rest (by omega) (Memory.within_write v (by omega) h)

/-! ### A buffer made of bytes -/

theorem Memory.wfFrom_ofBytesFrom : ∀ (bytes : List Byte) (i : Nat), (Memory.ofBytesFrom i bytes).wfFrom i
  | [], _ => trivial
  | v :: rest, i => by
    have ih := Memory.wfFrom_ofBytesFrom rest (i + 1)
    simp only [Memory.ofBytesFrom]
    split
    · exact Memory.wfFrom_mono (by omega) ih
    · next hv => exact ⟨le_refl i, hv, ih⟩

/-- A buffer made of bytes has the canonical form. -/
theorem Memory.wf_ofBytes (bytes : List Byte) : (Memory.ofBytes bytes).wf = true :=
  (Memory.wf_iff _).2 (Memory.wfFrom_ofBytesFrom bytes 0)

theorem Memory.read_ofBytesFrom : ∀ (bytes : List Byte) (i j : Nat),
    (Memory.ofBytesFrom i bytes).read j = if i ≤ j then bytes.getD (j - i) 0 else 0
  | [], i, j => by simp [Memory.ofBytesFrom, Memory.read]
  | v :: rest, i, j => by
    have ih := Memory.read_ofBytesFrom rest (i + 1) j
    simp only [Memory.ofBytesFrom]
    by_cases hv : v = 0
    · simp only [hv, if_true, ih]
      by_cases h1 : i + 1 ≤ j
      · have h2 : i ≤ j := by omega
        have h3 : j - i = (j - (i + 1)) + 1 := by omega
        simp [h1, h2, h3]
      · by_cases h2 : j = i
        · simp [h2]
        · have h3 : ¬ i ≤ j := by omega
          simp [h1, h3]
    · simp only [hv, if_false, Memory.read, ih]
      by_cases h2 : j = i
      · simp [h2]
      · by_cases h1 : i + 1 ≤ j
        · have h3 : i ≤ j := by omega
          have h4 : j - i = (j - (i + 1)) + 1 := by omega
          simp [h1, h2, h3, h4]
        · have h3 : ¬ i ≤ j := by omega
          simp [h1, h2, h3]

/-- Byte `j` of a buffer made of bytes. -/
theorem Memory.read_ofBytes (bytes : List Byte) (j : Nat) : (Memory.ofBytes bytes).read j = bytes.getD j 0 := by
  simp [Memory.ofBytes, Memory.read_ofBytesFrom]

theorem Memory.within_ofBytesFrom : ∀ (bytes : List Byte) (i n : Nat), i + bytes.length ≤ n →
    (Memory.ofBytesFrom i bytes).within n = true
  | [], _, _, _ => rfl
  | v :: rest, i, n, h => by
    simp only [List.length_cons] at h
    have ih := Memory.within_ofBytesFrom rest (i + 1) n (by omega)
    simp only [Memory.ofBytesFrom]
    split
    · exact ih
    · have hi : i < n := by omega
      simpa [Memory.within, hi] using ih

/-- A buffer made of at most `n` bytes lists only indexes below `n`. -/
theorem Memory.within_ofBytes {bytes : List Byte} {n : Nat} (h : bytes.length ≤ n) :
    (Memory.ofBytes bytes).within n = true :=
  Memory.within_ofBytesFrom bytes 0 n (by omega)

/-! ### The forms that later proofs cite, over `Memory.wf` -/

theorem Memory.wf_write {m : Memory} (i : Nat) (v : Byte) (h : m.wf = true) : (m.write i v).wf = true :=
  (Memory.wf_iff _).2 (Memory.wfFrom_write i v ((Memory.wf_iff m).1 h) (Nat.zero_le _))

theorem Memory.wf_writeBytes {m : Memory} (addr : Nat) (data : List Byte) (h : m.wf = true) :
    (m.writeBytes addr data).wf = true :=
  (Memory.wf_iff _).2 (Memory.wfFrom_writeBytes data ((Memory.wf_iff m).1 h))

theorem Memory.read_writeBytes_of_wf {m : Memory} (addr j : Nat) (data : List Byte) (h : m.wf = true) :
    (m.writeBytes addr data).read j =
      if addr ≤ j ∧ j < addr + data.length then data.getD (j - addr) 0 else m.read j :=
  Memory.read_writeBytes data ((Memory.wf_iff m).1 h)

end Sys2Proof.Machine
end

