-- ==== Sys2Proof/Laws/Layout.lean ====
section
/-! SUPPORT. The layout of an image (rule R8): the byte at a pixel's index is the byte laid out for that pixel. -/

namespace Sys2Proof.Machine

@[simp] theorem layOut_length (ch w h : Nat) (f : Nat → Nat → Nat → Byte) :
    (layOut ch w h f).length = w * h * ch := by simp [layOut]

/-- The index of a pixel's byte lies in the image. -/
theorem pixelIndex_lt {ch w h x y c : Nat} (hx : x < w) (hy : y < h) (hc : c < ch) :
    pixelIndex ch w x y c < w * h * ch := by
  have h1 : y * w + x < h * w := by
    calc y * w + x < y * w + w := by omega
      _ = (y + 1) * w := by ring
      _ ≤ h * w := Nat.mul_le_mul_right w hy
  calc pixelIndex ch w x y c < (y * w + x) * ch + ch := by unfold pixelIndex; omega
    _ = (y * w + x + 1) * ch := by ring
    _ ≤ (h * w) * ch := Nat.mul_le_mul_right ch h1
    _ = w * h * ch := by ring

/-- Byte `(x, y, c)` of a laid-out image. -/
theorem layOut_pixel {ch w h x y c : Nat} (f : Nat → Nat → Nat → Byte) (hx : x < w) (hy : y < h) (hc : c < ch) :
    (layOut ch w h f).getD (pixelIndex ch w x y c) 0 = f x y c := by
  have hk := pixelIndex_lt hx hy hc
  have h1 : pixelIndex ch w x y c / ch = y * w + x := by
    rw [pixelIndex, Nat.mul_comm, Nat.mul_add_div (by omega), Nat.div_eq_of_lt hc, Nat.add_zero]
  have h2 : pixelIndex ch w x y c % ch = c := by
    rw [pixelIndex, Nat.mul_comm, Nat.mul_add_mod, Nat.mod_eq_of_lt hc]
  have h3 : (y * w + x) % w = x := by rw [Nat.mul_comm, Nat.mul_add_mod, Nat.mod_eq_of_lt hx]
  have h4 : (y * w + x) / w = y := by
    rw [Nat.mul_comm, Nat.mul_add_div (by omega), Nat.div_eq_of_lt hx, Nat.add_zero]
  simp [layOut, List.getD, hk, h1, h2, h3, h4]

/-- Every byte of an image is the byte of some pixel: index `k` is `(k / ch % w, k / ch / w, k % ch)`. -/
theorem pixelIndex_surjective {ch w h k : Nat} (hk : k < w * h * ch) :
    k / ch % w < w ∧ k / ch / w < h ∧ k % ch < ch ∧ pixelIndex ch w (k / ch % w) (k / ch / w) (k % ch) = k := by
  have hch : 0 < ch := Nat.pos_of_ne_zero (by rintro rfl; simp at hk)
  have hw : 0 < w := Nat.pos_of_ne_zero (by rintro rfl; simp at hk)
  refine ⟨Nat.mod_lt _ hw, ?_, Nat.mod_lt _ hch, ?_⟩
  · rw [Nat.div_div_eq_div_mul, Nat.div_lt_iff_lt_mul (Nat.mul_pos hch hw)]
    calc k < w * h * ch := hk
      _ = h * (ch * w) := by ring
  · rw [pixelIndex, Nat.mul_comm (k / ch / w) w, Nat.div_add_mod, Nat.mul_comm, Nat.div_add_mod]

/-- A pixel's byte of the input image is that byte of the buffer. -/
theorem pixelByte_readBytes {m : Memory} {ch w h x y c : Nat} (hx : x < w) (hy : y < h) (hc : c < ch) :
    pixelByte (m.readBytes 0 (w * h * ch)) ch w x y c = m.read (pixelIndex ch w x y c) := by
  rw [pixelByte, Memory.readBytes_getD (pixelIndex_lt hx hy hc), Nat.zero_add]

end Sys2Proof.Machine
end

