-- ==== Sys2Proof/Laws/Engine.lean ====
section
/-! SUPPORT. What the Transform Engine returns, and what running it in PROCESSING does. -/

namespace Sys2Proof.Machine

/-- A transform returns exactly the bytes of its output dimensions (rule R121). -/
theorem transform_length {c : Config} {op : Operation} (h : isColour op = true → c.channels = 3) (w hh : Nat)
    (img : List Byte) :
    (transform c w hh img op).length = (outDims c w hh op).1 * (outDims c w hh op).2 * c.channels := by
  cases op with
  | rgbToYuv => simp [transform, rgbToYuvBytes, outDims, h rfl]
  | yuvToRgb => simp [transform, yuvToRgbBytes, outDims, h rfl]
  | scale f => simp [transform, scaleBytes, outDims]
  | rotate0 => simp [transform, rotate0Bytes, outDims]
  | rotate90 => simp [transform, rotate90Bytes, outDims]
  | rotate180 => simp [transform, rotate180Bytes, outDims]
  | rotate270 => simp [transform, rotate270Bytes, outDims]
  | rotateGen a => simp [transform, rotateGenBytes, outDims]

/-- An operation that passes the tests of rule R120 returns its image. -/
theorem runOperation_ok {c : Config} {op : Operation} {w h : Nat} (hw : w ≠ 0) (hh : h ≠ 0)
    (hc : isColour op = true → c.channels = 3)
    (hf : (outDims c w h op).1 * (outDims c w h op).2 * c.channels ≤ c.frameBufferSize) (input : Memory) :
    runOperation c op w h input =
      .ok
        { w := (outDims c w h op).1
          h := (outDims c w h op).2
          bytes := transform c w h (input.readBytes 0 (w * h * c.channels)) op } := by
  have h1 : ¬ (isColour op = true ∧ c.channels ≠ 3) := fun ⟨a, b⟩ => b (hc a)
  have h2 := Nat.not_lt.2 hf
  rw [runOperation, if_neg (by simp [hw, hh]), if_neg h1, if_neg h2]

/-- An image that an operation returns has its dimensions' bytes, and fits. -/
theorem runOperation_image {c : Config} {op : Operation} {w h : Nat} {input : Memory} {img : Image}
    (hr : runOperation c op w h input = .ok img) :
    img.bytes.length = img.w * img.h * c.channels ∧ img.w * img.h * c.channels ≤ c.frameBufferSize := by
  unfold runOperation at hr
  split_ifs at hr with h1 h2 h3
  have hc : isColour op = true → c.channels = 3 := fun a => by
    by_contra b
    exact h2 ⟨a, b⟩
  simp only [RunResult.ok.injEq] at hr
  subst hr
  exact ⟨transform_length hc w h _, Nat.le_of_not_lt h3⟩

/-- An image that `Run` returns has its dimensions' bytes, and fits. -/
theorem run_image {c : Config} {d : Descriptor} {input : Memory} {img : Image} (hr : run c d input = .ok img) :
    img.bytes.length = img.w * img.h * c.channels ∧ img.w * img.h * c.channels ≤ c.frameBufferSize := by
  unfold run at hr
  split_ifs at hr
  split at hr
  · cases hr
  · exact runOperation_image hr

/-- A row `OP.*` runs its operation. -/
theorem exec_toInstr (op : Operation) (w h : Word) (s : State) :
    exec (op.toInstr w h) s = .next (operate op w h s) := by cases op <;> rfl

/-- `Run` on a descriptor with a known operation is that operation's run. -/
theorem run_known {c : Config} {d : Descriptor} {op : Operation} (h : selectOperation c d = some op) (input : Memory) :
    run c d input = runOperation c op d.width.toNat d.height.toNat input := by
  unfold run
  split_ifs with hz
  · simp [runOperation, hz]
  · rw [h]

/-- `Run` on a descriptor with an unknown operation is a fault. -/
theorem run_unknown {c : Config} {d : Descriptor} (h : selectOperation c d = none) (input : Memory) :
    ∃ e, run c d input = .err e := by
  unfold run
  split_ifs
  · exact ⟨_, rfl⟩
  · rw [h]
    exact ⟨_, rfl⟩

end Sys2Proof.Machine
end

