-- ==== Sys2Proof/Laws/PerInstr.lean ====
section
/-! SUPPORT. A fact about every instruction, one lemma a constructor: whatever it is decoded from, it is well-formed. -/

namespace Sys2Proof.Laws.DecodedWellFormed

/-- An instruction that some code decodes to is well-formed. -/
def Statement (i : Instr) : Prop :=
  ∀ (c : Config) (code : Code), decode c code = .instr i → i.wellFormed c = true

theorem pixRd (addr len : Nat) : Statement (.pixRd addr len) := fun _ _ h => decode_wellFormed h

theorem pixWr (addr : Nat) (data : List Byte) : Statement (.pixWr addr data) := fun _ _ h => decode_wellFormed h

theorem rd32Control : Statement .rd32Control := fun _ _ h => decode_wellFormed h

theorem rd32Status : Statement .rd32Status := fun _ _ h => decode_wellFormed h

theorem rd32SrcAddr : Statement .rd32SrcAddr := fun _ _ h => decode_wellFormed h

theorem rd32DstAddr : Statement .rd32DstAddr := fun _ _ h => decode_wellFormed h

theorem rd32Width : Statement .rd32Width := fun _ _ h => decode_wellFormed h

theorem rd32Height : Statement .rd32Height := fun _ _ h => decode_wellFormed h

theorem rd32Operation : Statement .rd32Operation := fun _ _ h => decode_wellFormed h

theorem rd32ScaleFactor : Statement .rd32ScaleFactor := fun _ _ h => decode_wellFormed h

theorem rd32RotationAngle : Statement .rd32RotationAngle := fun _ _ h => decode_wellFormed h

theorem rd32ColorFormat : Statement .rd32ColorFormat := fun _ _ h => decode_wellFormed h

theorem wr32Control (v : Word) : Statement (.wr32Control v) := fun _ _ h => decode_wellFormed h

theorem wr32Status (v : Word) : Statement (.wr32Status v) := fun _ _ h => decode_wellFormed h

theorem wr32SrcAddr (v : Word) : Statement (.wr32SrcAddr v) := fun _ _ h => decode_wellFormed h

theorem wr32DstAddr (v : Word) : Statement (.wr32DstAddr v) := fun _ _ h => decode_wellFormed h

theorem wr32Width (v : Word) : Statement (.wr32Width v) := fun _ _ h => decode_wellFormed h

theorem wr32Height (v : Word) : Statement (.wr32Height v) := fun _ _ h => decode_wellFormed h

theorem wr32Operation (v : Word) : Statement (.wr32Operation v) := fun _ _ h => decode_wellFormed h

theorem wr32ScaleFactor (v : Word) : Statement (.wr32ScaleFactor v) := fun _ _ h => decode_wellFormed h

theorem wr32RotationAngle (v : Word) : Statement (.wr32RotationAngle v) := fun _ _ h => decode_wellFormed h

theorem wr32ColorFormat (v : Word) : Statement (.wr32ColorFormat v) := fun _ _ h => decode_wellFormed h

theorem opScale (w h factor : Word) : Statement (.opScale w h factor) := fun _ _ h => decode_wellFormed h

theorem opRotate0 (w h : Word) : Statement (.opRotate0 w h) := fun _ _ h => decode_wellFormed h

theorem opRotate90 (w h : Word) : Statement (.opRotate90 w h) := fun _ _ h => decode_wellFormed h

theorem opRotate180 (w h : Word) : Statement (.opRotate180 w h) := fun _ _ h => decode_wellFormed h

theorem opRotate270 (w h : Word) : Statement (.opRotate270 w h) := fun _ _ h => decode_wellFormed h

theorem opRotateGen (w h : Word) (angle : Nat) : Statement (.opRotateGen w h angle) := fun _ _ h => decode_wellFormed h

theorem opRgbToYuv (w h : Word) : Statement (.opRgbToYuv w h) := fun _ _ h => decode_wellFormed h

theorem opYuvToRgb (w h : Word) : Statement (.opYuvToRgb w h) := fun _ _ h => decode_wellFormed h

theorem complete : Statement .complete := fun _ _ h => decode_wellFormed h

end Sys2Proof.Laws.DecodedWellFormed
end

