-- ==== Sys2Proof/Laws/Step.lean ====
section
/-! SUPPORT. What a step can do, said once: which agent acts, and what its action is. -/

namespace Sys2Proof.Machine

/-- A step of a legal device that no violation has stopped goes by the head of the environment's list. -/
theorem step_running {s : State} (hf : s.fatal = none) (hl : s.cfg.Legal) :
    step s =
      match s.events with
      | [] => undisturbed s
      | .bus t :: rest => runCode (.transaction t) { s with events := rest }
      | .complete :: rest =>
        if controllerEnabled s then controllerTurn { s with events := rest } else .next { s with events := rest }
      | .advance n :: rest => advanceTime n rest s := by
  unfold step cycle
  split
  · next h => rw [hf] at h; cases h
  · exact if_pos hl

/-- A delivered transaction is decoded and run. -/
theorem step_bus {s : State} {t : Transaction} {rest : List Event} (hf : s.fatal = none) (hl : s.cfg.Legal)
    (he : s.events = .bus t :: rest) : step s = runCode (.transaction t) { s with events := rest } := by
  rw [step_running hf hl, he]

/-- A turn given to the controller is taken if its step is enabled. -/
theorem step_complete {s : State} {rest : List Event} (hf : s.fatal = none) (hl : s.cfg.Legal)
    (he : s.events = .complete :: rest) :
    step s =
      if controllerEnabled s then controllerTurn { s with events := rest } else .next { s with events := rest } := by
  rw [step_running hf hl, he]

/-- The passage of time. -/
theorem step_advance {s : State} {n : Nat} {rest : List Event} (hf : s.fatal = none) (hl : s.cfg.Legal)
    (he : s.events = .advance n :: rest) : step s = advanceTime n rest s := by
  rw [step_running hf hl, he]

/-- With nothing delivered, an armed or running operation goes on. -/
theorem step_undelivered {s : State} (hf : s.fatal = none) (hl : s.cfg.Legal) (he : s.events = []) :
    step s = undisturbed s := by
  rw [step_running hf hl, he]

/-- In PROCESSING, decoding and running a descriptor is the run and finish parts of the completion event. -/
theorem runCode_operation {s : State} (h : s.ctrl = .processing) (d : Descriptor) :
    runCode (.operation d) s = .next (finishWith (run s.cfg d s.input) s) := by
  unfold runCode
  cases hop : selectOperation s.cfg d with
  | none =>
    have hd : decode s.cfg (.operation d) = .unknownOperation := by simp [decode, hop]
    obtain ⟨e, he⟩ := run_unknown hop s.input
    rw [hd, he, finishWith_err, finishWith_err]
  | some op =>
    have hd : decode s.cfg (.operation d) = .instr (op.toInstr d.width d.height) := by simp [decode, hop]
    rw [hd, run_known hop]
    simp only [exec_toInstr, operate, h, if_true]

/-- What the completion event does to an ARMED controller (rule R119). -/
theorem execComplete_armed {s : State} (h : s.ctrl = .armed) :
    exec .complete s =
      .next (if s.cfg.processingAtomic then finishProcessing (beginProcessing s) else beginProcessing s) := by
  simp [exec, execComplete, h]

/-- What the controller's turn can do: nothing at rest, the completion event in ARMED, FINISH in PROCESSING. -/
theorem controllerTurn_cases {s t : State} (h : controllerTurn s = .next t) :
    (s.ctrl = .armed ∧ exec .complete s = .next t) ∨
    (s.ctrl = .processing ∧ ∃ d, s.desc = some d ∧ t = finishWith (run s.cfg d s.input) s) ∨
    (s.ctrl ≠ .armed ∧ (s.ctrl = .processing → s.desc = none) ∧ t = s) := by
  unfold controllerTurn at h
  split at h
  · next hc => exact .inl ⟨hc, h⟩
  · next hc =>
    split at h
    · next d hd =>
      rw [runCode_operation hc] at h
      cases h
      exact .inr (.inl ⟨hc, d, hd, rfl⟩)
    · next hd =>
      cases h
      exact .inr (.inr ⟨by simp [hc], fun _ => hd, rfl⟩)
  all_goals
    next hc =>
      cases h
      exact .inr (.inr ⟨by simp [hc], by simp [hc], rfl⟩)

/-- What a step that answers a next state can be: a decoded transaction, a protocol violation, the controller's turn
(after the head event or the clock), or time and events alone. -/
theorem step_cases {s t : State} (h : step s = .next t) :
    s.fatal = none ∧ s.cfg.Legal ∧
    ((∃ tr rest i, s.events = .bus tr :: rest ∧ decode s.cfg (.transaction tr) = .instr i ∧
        exec i { s with events := rest } = .next t) ∨
     (∃ tr rest r, s.events = .bus tr :: rest ∧ decode s.cfg (.transaction tr) = .violation r ∧
        t = takeViolation r { s with events := rest }) ∨
     ((∀ tr rest, s.events ≠ .bus tr :: rest) ∧ ∃ now events,
        controllerTurn { s with now := now, events := events } = .next t ∧ s.now ≤ now ∧
        (∀ p, s.pending = some p → now ≤ max s.now p) ∧
        (s.cfg.timed = false ∨ s.ctrl ≠ .armed ∨ s.pending = none ∨ ∃ p, s.pending = some p ∧ p ≤ now)) ∨
     ((∀ tr rest, s.events ≠ .bus tr :: rest) ∧ ∃ now events, t = { s with now := now, events := events } ∧
        (s.cfg.timed = true → ∀ p, s.pending = some p → now ≤ max s.now p))) := by
  have hf : s.fatal = none := by
    cases hf : s.fatal with
    | none => rfl
    | some r => simp [step, cycle, hf] at h
  have hl : s.cfg.Legal := by
    by_contra hl
    unfold step cycle at h
    split at h
    · cases h
    · rw [if_neg hl] at h
      cases h
  rw [step_running hf hl] at h
  refine ⟨hf, hl, ?_⟩
  split at h
  · next he =>
    have hb : ∀ tr rest, s.events ≠ .bus tr :: rest := by simp [he]
    unfold undisturbed at h
    split_ifs at h with ht
    · refine .inr (.inr (.inl ⟨hb, _, s.events, h, le_max_left _ _, fun p hp => by simp [hp], .inr (.inr ?_)⟩))
      cases hp : s.pending with
      | none => exact .inl rfl
      | some p => exact .inr ⟨p, rfl, by simp⟩
    · exact .inr (.inr (.inl ⟨hb, s.now, s.events, h, le_refl _, fun _ _ => le_max_left _ _, .inl (by simpa using ht)⟩))
  · next tr rest he =>
    unfold runCode at h
    split at h
    · next i hi => exact .inl ⟨tr, rest, i, he, hi, h⟩
    · next r hr =>
      cases h
      exact .inr (.inl ⟨tr, rest, r, he, hr, rfl⟩)
    · next hu =>
      exfalso
      simp only [decode, decodeTransaction] at hu
      split_ifs at hu
      split at hu <;> cases hu
  · next rest he =>
    have hb : ∀ tr rest, s.events ≠ .bus tr :: rest := by simp [he]
    split_ifs at h with hc
    · refine .inr (.inr (.inl ⟨hb, s.now, rest, h, le_refl _, fun _ _ => le_max_left _ _, ?_⟩))
      unfold controllerEnabled at hc
      split at hc
      · simp only [Bool.or_eq_true, Bool.not_eq_true', decide_eq_true_eq] at hc
        rcases hc with hc | hc
        · exact .inl hc
        · exact .inr (.inr (.inr ⟨_, hc, le_refl _⟩))
      all_goals simp_all
    · cases h
      exact .inr (.inr (.inr ⟨hb, s.now, rest, rfl, fun _ _ _ => le_max_left _ _⟩))
  · next n rest he =>
    have hb : ∀ tr rest, s.events ≠ .bus tr :: rest := by simp [he]
    unfold advanceTime at h
    split at h
    · next hp =>
      cases h
      exact .inr (.inr (.inr ⟨hb, _, _, rfl, fun _ p hq => by simp [hp] at hq⟩))
    · next p hp =>
      split_ifs at h with h1 h2
      · cases h
        refine .inr (.inr (.inr ⟨hb, _, _, rfl, fun ht q hq => ?_⟩))
        have hqp : p = q := by simpa [hp] using hq
        simp only [ht, Bool.not_true, Bool.false_or, decide_eq_true_eq] at h1
        exact le_trans h1 (hqp ▸ le_max_right _ _)
      · cases h
        refine .inr (.inr (.inr ⟨hb, _, _, rfl, fun _ q hq => ?_⟩))
        have hqp : p = q := by simpa [hp] using hq
        exact hqp ▸ le_max_right _ _
      · exact .inr (.inr (.inl ⟨hb, s.now, s.events, h, le_refl _, fun _ _ => le_max_left _ _,
          .inr (.inr (.inr ⟨p, hp, Nat.le_of_not_lt h2⟩))⟩))

/-- What a decoded transaction can do: the control write, or an answer with at most a configuration register or the
bytes of `input` changed. -/
theorem exec_transaction_cases {c : Config} {tr : Transaction} {i : Instr} {s t : State}
    (hd : decode c (.transaction tr) = .instr i) (h : exec i s = .next t) :
    (∃ v, i = .wr32Control v ∧ t = answer [] (writeControl v s)) ∨
    ((∀ v, i ≠ .wr32Control v) ∧
      ((∃ r, i = readInstr r ∧ t = readRegister r s) ∨
       (∃ r v, r ≠ .control ∧ i = writeInstr v r ∧ t = writeRegister r v s) ∨
       (∃ a n, i = .pixRd a n ∧ tr = .read a n ∧ a < c.controlBase ∧ t = answer (s.output.readBytes a n) s) ∨
       (∃ a d, i = .pixWr a d ∧ tr = .write a d ∧ c.inPixelWindow a d.length ∧ s.ctrl ≠ .processing ∧
          t = answer [] { s with input := s.input.writeBytes a d }))) := by
  simp only [decode, decodeTransaction] at hd
  split_ifs at hd with h1 h2 h3 h4
  · split at hd
    · next r _ =>
      simp only [Decoded.instr.injEq] at hd
      subst hd
      cases tr with
      | read a n =>
        refine .inr ⟨by cases r <;> simp [Transaction.onRegister, readInstr], .inl ⟨r, rfl, ?_⟩⟩
        cases r <;> (cases h; rfl)
      | write a d =>
        by_cases hr : r = .control
        · subst hr
          cases h
          exact .inl ⟨_, rfl, rfl⟩
        · refine .inr ⟨by cases r <;> simp_all [Transaction.onRegister, writeInstr],
            .inr (.inl ⟨r, wordOfData d, hr, rfl, ?_⟩)⟩
          cases r <;> first | exact absurd rfl hr | (cases h; rfl)
    · cases hd
  · simp only [Decoded.instr.injEq] at hd
    subst hd
    cases tr with
    | read a n =>
      cases h
      exact .inr ⟨by simp [Transaction.onPixels], .inr (.inr (.inl ⟨a, n, rfl, rfl, Nat.lt_of_not_le h1, rfl⟩))⟩
    | write a d =>
      simp only [Transaction.onPixels, exec, execPixWr] at h
      split_ifs at h with hp
      cases h
      exact .inr ⟨by simp [Transaction.onPixels],
        .inr (.inr (.inr ⟨a, d, rfl, rfl, ⟨h3, Nat.le_of_not_lt h4⟩, hp, rfl⟩))⟩

/-- The controller's turn in a state of the invariant, whatever the clock and the list say by then: nothing at rest, the
whole completion event or its begin part in ARMED, and the run and finish parts in PROCESSING. -/
theorem controllerTurn_of_inv {s t : State} (hi : Inv s) {now : Nat} {events : List Event}
    (h : controllerTurn { s with now := now, events := events } = .next t) :
    (AtRest s ∧ t = { s with now := now, events := events }) ∨
    (∃ d, s.desc = some d ∧ s.ctrl = .armed ∧ s.cfg.processingAtomic = true ∧
      t = finishWith (run s.cfg d s.input) (beginProcessing { s with now := now, events := events })) ∨
    (s.ctrl = .armed ∧ s.cfg.processingAtomic = false ∧ t = beginProcessing { s with now := now, events := events }) ∨
    (∃ d, s.desc = some d ∧ s.ctrl = .processing ∧
      t = finishWith (run s.cfg d s.input) { s with now := now, events := events }) := by
  rcases controllerTurn_cases h with ⟨h1, h2⟩ | ⟨h1, d, h2, h3⟩ | ⟨h1, h2, h3⟩
  · obtain ⟨d, hd⟩ := Option.ne_none_iff_exists'.1 (hi.desc.2 (.inl h1))
    rw [execComplete_armed h1] at h2
    cases h2
    cases ha : s.cfg.processingAtomic with
    | true => exact .inr (.inl ⟨d, hd, h1, rfl, by simp only [finishProcessing, beginProcessing, hd, if_true]⟩)
    | false => exact .inr (.inr (.inl ⟨h1, rfl, rfl⟩))
  · exact .inr (.inr (.inr ⟨d, h2, h1, h3⟩))
  · refine .inl ⟨?_, h3⟩
    have hd := hi.desc
    unfold AtRest
    cases hc : s.ctrl <;> simp_all

end Sys2Proof.Machine
end

