-- ==== Sys2Proof/Tests/Slice0.lean ====
section
/-! SUPPORT. The model's own tests. Expected results are those of spec/95_test_vectors.md (the vector is named), of the
tables of spec/30_encoding.md, or worked by hand from the rule named. The `witness_` theorems show, for each obligation that
has hypotheses, states and operands that meet all of them together, at the ends of their ranges. -/

namespace Sys2Proof.Tests

open Sys2Proof Sys2Proof.Machine

/-! ### Helpers -/

/-- `p` holds of the next state of an outcome. -/
def after (o : Host.Outcome State Fault Refusal) (p : State → Bool) : Bool :=
  match o with
  | .next t => p t
  | .fault _ => false
  | .refused _ => false

/-- A device with one byte a pixel, as most vectors use. -/
def gray : Config := { Config.standard with channels := 1 }

/-- A gray device after reset. -/
def base : State := State.construct gray ResetValues.suggested

/-- A device of channel count `ch` in PROCESSING on the image `img`. -/
def processing (ch : Nat) (d : Descriptor) (img : List Byte) : State :=
  { State.construct { Config.standard with channels := ch } ResetValues.suggested with
    input := Memory.ofBytes img
    ctrl := .processing
    desc := some d
    regs := { base.regs with control := 3, status := 1 } }

/-- The descriptor of the set-up of V20 to V29: a 2 by 2 image at 180°. -/
def halfTurn : Descriptor := ⟨1, 2, 2, 100, 180, 0⟩

/-- The set-up of V20 to V29 after `WR32 control, 0x7`. -/
def armed : State :=
  { base with
    input := [(0, 1), (1, 2), (2, 3), (3, 4)]
    ctrl := .armed
    desc := some halfTurn
    pending := some 0
    regs := { base.regs with control := 7, width := 2, height := 2, operation := 1, rotationAngle := 180 } }

/-- The set-up of V20 to V29 at rest in DONE, after V21. -/
def done : State :=
  { armed with
    output := [(0, 4), (1, 3), (2, 2), (3, 1)]
    outW := 2
    outH := 2
    ctrl := .done
    desc := none
    pending := none
    irqLog := [0]
    regs := { armed.regs with control := 3, status := 2 } }

/-- The state of V29b to V29f after the fault. -/
def failed : State := { done with ctrl := .error, regs := { done.regs with status := 4 } }

/-- `armed` on a device with the split profile. -/
def armedSplit : State := { armed with cfg := { gray with processingAtomic := false } }

/-- `armedSplit` after BEGIN (step 2 of S3). -/
def running : State :=
  { armedSplit with ctrl := .processing, pending := none, regs := { armed.regs with control := 3, status := 1 } }

/-- `armed` on a device with the timed reading, three units before its deadline of 5. -/
def armedTimed : State :=
  { armed with cfg := { gray with timed := true, processingDelay := 5 }, now := 2, pending := some 5 }

/-- One step with a transaction delivered. -/
def deliver (t : Transaction) (s : State) : Host.Outcome State Fault Refusal := step { s with events := [.bus t] }

/-- Decoding on a gray device gives a violation. -/
def violates (t : Transaction) (r : FatalReason) : Bool := decide (decode gray (.transaction t) = .violation r)

/-! ### Well-formedness: an ill-formed term for each check -/

theorem test_wellFormed_refuses_pixRd_outside : (Instr.pixRd 2073600 0).wellFormed gray = false := by decide
theorem test_wellFormed_refuses_pixRd_overrun : (Instr.pixRd 2073599 2).wellFormed gray = false := by decide
theorem test_wellFormed_refuses_pixWr_outside : (Instr.pixWr 2073600 []).wellFormed gray = false := by decide
theorem test_wellFormed_refuses_pixWr_overrun : (Instr.pixWr 2073599 [1, 2]).wellFormed gray = false := by decide
theorem test_wellFormed_refuses_whole_circle : (Instr.opRotateGen 3 3 360).wellFormed gray = false := by decide
theorem test_wellFormed_refuses_quarter_turn : (Instr.opRotateGen 3 3 270).wellFormed gray = false := by decide

/-! ### Decoding: rows written out from rules R62, R65, R68 and R74 -/

theorem test_decode_pixels :
    decode gray (.transaction (.read 0x1fa3ff 1)) = .instr (.pixRd 0x1fa3ff 1) ∧
    decode gray (.transaction (.read 0 0)) = .instr (.pixRd 0 0) ∧
    decode gray (.transaction (.write 0 [0, 16, 32, 48])) = .instr (.pixWr 0 [0, 16, 32, 48]) := by decide

theorem test_decode_register_reads :
    decode gray (.transaction (.read 0xff0000 4)) = .instr .rd32Control ∧
    decode gray (.transaction (.read 0xff0004 4)) = .instr .rd32Status ∧
    decode gray (.transaction (.read 0xff0008 4)) = .instr .rd32SrcAddr ∧
    decode gray (.transaction (.read 0xff000c 4)) = .instr .rd32DstAddr ∧
    decode gray (.transaction (.read 0xff0010 4)) = .instr .rd32Width ∧
    decode gray (.transaction (.read 0xff0014 4)) = .instr .rd32Height ∧
    decode gray (.transaction (.read 0xff0018 4)) = .instr .rd32Operation ∧
    decode gray (.transaction (.read 0xff001c 4)) = .instr .rd32ScaleFactor ∧
    decode gray (.transaction (.read 0xff0020 4)) = .instr .rd32RotationAngle ∧
    decode gray (.transaction (.read 0xff0024 4)) = .instr .rd32ColorFormat := by decide

theorem test_decode_register_writes :
    decode gray (.transaction (.write 0xff0000 [0xfb, 0xff, 0xff, 0xff])) = .instr (.wr32Control 0xfffffffb) ∧
    decode gray (.transaction (.write 0xff0004 [0x07, 0x00, 0x00, 0x00])) = .instr (.wr32Status 7) ∧
    decode gray (.transaction (.write 0xff0008 [0x34, 0x12, 0x00, 0x00])) = .instr (.wr32SrcAddr 0x1234) ∧
    decode gray (.transaction (.write 0xff000c [0x00, 0x10, 0x00, 0x00])) = .instr (.wr32DstAddr 0x1000) ∧
    decode gray (.transaction (.write 0xff0010 [0x80, 0x07, 0x00, 0x00])) = .instr (.wr32Width 1920) ∧
    decode gray (.transaction (.write 0xff0014 [0x38, 0x04, 0x00, 0x00])) = .instr (.wr32Height 1080) ∧
    decode gray (.transaction (.write 0xff0018 [0x01, 0x00, 0x00, 0x00])) = .instr (.wr32Operation 1) ∧
    decode gray (.transaction (.write 0xff001c [0xc8, 0x00, 0x00, 0x00])) = .instr (.wr32ScaleFactor 200) ∧
    decode gray (.transaction (.write 0xff0020 [0x99, 0xfe, 0xff, 0xff])) = .instr (.wr32RotationAngle 0xfffffe99) ∧
    decode gray (.transaction (.write 0xff0024 [0xef, 0xbe, 0xad, 0xde])) = .instr (.wr32ColorFormat 0xdeadbeef) := by
  decide

/-- Angles of V40 to V43, and 359 and -1 of rule R140. -/
theorem test_decode_operations :
    decode gray (.operation ⟨0, 3, 2, 50, 45, 0⟩) = .instr (.opScale 3 2 50) ∧
    decode gray (.operation ⟨1, 3, 2, 50, 0, 0⟩) = .instr (.opRotate0 3 2) ∧
    decode gray (.operation ⟨1, 3, 2, 50, 0xfffffef2, 0⟩) = .instr (.opRotate90 3 2) ∧
    decode gray (.operation ⟨1, 3, 2, 50, 0xffffff4c, 0⟩) = .instr (.opRotate180 3 2) ∧
    decode gray (.operation ⟨1, 3, 2, 50, 0xffffffa6, 0⟩) = .instr (.opRotate270 3 2) ∧
    decode gray (.operation ⟨1, 3, 2, 50, 45, 0⟩) = .instr (.opRotateGen 3 2 45) ∧
    decode gray (.operation ⟨1, 3, 2, 50, 0xffffffff, 0⟩) = .instr (.opRotateGen 3 2 359) ∧
    decode gray (.operation ⟨2, 3, 2, 50, 45, 0⟩) = .instr (.opRgbToYuv 3 2) ∧
    decode gray (.operation ⟨3, 3, 2, 50, 45, 0⟩) = .instr (.opYuvToRgb 3 2) ∧
    decode gray (.operation ⟨0x10000, 3, 2, 50, 45, 0⟩) = .unknownOperation := by decide

theorem test_decode_complete : decode gray .completion = .instr .complete := by decide

/-- V3 to V9g. -/
theorem test_decode_violations :
    violates (.read 0xff0000 2) .partialRegisterAccess = true ∧
    violates (.write 0xff0000 [5, 0, 0, 0, 0, 0, 0, 0]) .partialRegisterAccess = true ∧
    violates (.read 0xff0002 4) .unmappedControlAddress = true ∧
    violates (.read 0xff0028 4) .unmappedControlAddress = true ∧
    violates (.read 0xff0028 1) .partialRegisterAccess = true ∧
    violates (.read 0xffffffff 4) .unmappedControlAddress = true ∧
    violates (.read 0x1fa3ff 2) .pixelWindowOverrun = true ∧
    violates (.read 0x1fa400 0) .unmappedAddress = true ∧
    violates (.read 0xfeffff 1) .unmappedAddress = true ∧
    violates (.read 0xfefffe 4) .unmappedAddress = true := by decide

/-- Words of spec/opcode_table.json: the address of a register, an operation code, and no bits. -/
theorem test_decode_table_words :
    decodeTableWord 32 0x00ff0010 = some .rd32Width ∧ decodeTableWord 32 2 = some (.opRgbToYuv 0 0) ∧
    decodeTableWord 0 0 = some .complete ∧ decodeTableWord 32 0x00ff0028 = none := by decide

/-! ### Encoding -/

/-- Rule R74's notation, and the bytes of V19. -/
theorem test_encode_transactions :
    encode gray .rd32ColorFormat = .transaction (.read 0xff0024 4) ∧
    encode gray (.wr32RotationAngle 0xffffffa6) = .transaction (.write 0xff0020 [0xa6, 0xff, 0xff, 0xff]) ∧
    encode gray (.pixWr 7 [9]) = .transaction (.write 7 [9]) := by decide

/-! ### Reset and the placing of a word -/

/-- The fixed rows of rule R32. -/
theorem test_reset_fixed_values :
    State.reset.regs.control = 0 ∧ State.reset.regs.status = 0 ∧ State.reset.ctrl = .idle ∧ State.reset.desc = none ∧
    State.reset.pending = none ∧ State.reset.irqLog = [] ∧ State.reset.fatal = none ∧
    State.reset.input.wf = true ∧ State.reset.output.wf = true := by decide

/-- A register's word runs its read, an operation's word runs the operation (here on an empty image, which ends in ERROR),
and no bits run the completion event. -/
theorem test_withFetchWord :
    after (step (State.reset.withFetchWord 32 0x00ff001c)) (fun t => decide (t.reply = some [100, 0, 0, 0])) = true ∧
    after (step (State.reset.withFetchWord 32 3)) (fun t => decide (t.ctrl = .error ∧ t.regs.status = 4)) = true ∧
    after (step (State.reset.withFetchWord 0 0)) (fun t => decide (t.ctrl = .error ∧ t.desc = none)) = true := by decide

/-! ### Pixel transactions -/

/-- V9a's address, on a device whose `output` holds a byte there. -/
theorem test_pixRd_last_byte :
    after (deliver (.read 0x1fa3ff 1) { base with output := [(0x1fa3ff, 7)] })
      (fun t => decide (t.reply = some [7] ∧ t.output = [(0x1fa3ff, 7)])) = true := by decide

/-- V19f: a read after a write returns `output`. -/
theorem test_pixRd_returns_output :
    after (deliver (.read 0 4) { base with input := [(0, 9), (1, 9), (2, 9), (3, 9)] })
      (fun t => decide (t.reply = some [0, 0, 0, 0])) = true := by decide

/-- The example of rule R81. Byte 0 has the value of an unlisted index, so it is not listed. -/
theorem test_pixWr_fills_input :
    after (deliver (.write 0 [0, 16, 32, 48]) { base with input := [(0, 5), (9, 6)] })
      (fun t => decide (t.input = [(1, 16), (2, 32), (3, 48), (9, 6)] ∧ t.output = [] ∧ t.reply = some [])) = true := by
  decide

/-- V28: pixels are written while ARMED, and the controller does not move. -/
theorem test_pixWr_while_armed :
    after (deliver (.write 0 [9]) armed)
      (fun t => decide (t.input.readBytes 0 4 = [9, 2, 3, 4] ∧ t.ctrl = .armed ∧ t.desc = some halfTurn)) = true := by
  decide

/-! ### Register reads -/

/-- The example of rule R82. -/
theorem test_rd32Control :
    after (deliver (.read 0xff0000 4) armed) (fun t => decide (t.reply = some [7, 0, 0, 0])) = true := by decide

/-- V21: reading does not clear. -/
theorem test_rd32Status :
    after (deliver (.read 0xff0004 4) done)
      (fun t => decide (t.reply = some [2, 0, 0, 0] ∧ t.regs.status = 2)) = true := by decide

theorem test_rd32SrcAddr :
    after (exec .rd32SrcAddr { base with regs := { base.regs with srcAddr := 0x1234 } })
      (fun t => decide (t.reply = some [0x34, 0x12, 0, 0])) = true := by decide

theorem test_rd32DstAddr :
    after (exec .rd32DstAddr { base with regs := { base.regs with dstAddr := 0xffffffff } })
      (fun t => decide (t.reply = some [0xff, 0xff, 0xff, 0xff])) = true := by decide

theorem test_rd32Width :
    after (exec .rd32Width { base with regs := { base.regs with width := 640, height := 480 } })
      (fun t => decide (t.reply = some [0x80, 0x02, 0, 0])) = true := by decide

theorem test_rd32Height :
    after (exec .rd32Height { base with regs := { base.regs with width := 640, height := 480 } })
      (fun t => decide (t.reply = some [0xe0, 0x01, 0, 0])) = true := by decide

theorem test_rd32Operation :
    after (exec .rd32Operation { base with regs := { base.regs with operation := 7 } })
      (fun t => decide (t.reply = some [7, 0, 0, 0])) = true := by decide

theorem test_rd32ScaleFactor :
    after (exec .rd32ScaleFactor { base with regs := { base.regs with scaleFactor := 150 } })
      (fun t => decide (t.reply = some [150, 0, 0, 0])) = true := by decide

/-- V19: the register is not normalised. -/
theorem test_rd32RotationAngle :
    after (exec .rd32RotationAngle { base with regs := { base.regs with rotationAngle := 0xffffffa6 } })
      (fun t => decide (t.reply = some [0xa6, 0xff, 0xff, 0xff])) = true := by decide

theorem test_rd32ColorFormat :
    after (exec .rd32ColorFormat { base with regs := { base.regs with colorFormat := 2 } })
      (fun t => decide (t.reply = some [2, 0, 0, 0])) = true := by decide

/-! ### Register writes -/

/-- V23: a trigger write in DONE clears the status, keeps the output and raises nothing. V25: cancelling. -/
theorem test_wr32Control_trigger_and_cancel :
    after (deliver (.write 0xff0000 [7, 0, 0, 0]) done)
      (fun t =>
        decide (t.ctrl = .armed ∧ t.regs.control = 7 ∧ t.regs.status = 0 ∧ t.desc = some halfTurn ∧
          t.irqLog = [0] ∧ t.output = done.output)) = true ∧
    after (deliver (.write 0xff0000 [1, 0, 0, 0]) armed)
      (fun t =>
        decide (t.ctrl = .idle ∧ t.regs.control = 1 ∧ t.regs.status = 0 ∧ t.desc = none ∧ t.pending = none ∧
          t.irqLog = [])) = true := by decide

/-- V19d: reserved bits are dropped. V22: a plain write keeps the status of DONE. -/
theorem test_wr32Control_plain :
    after (deliver (.write 0xff0000 [0xfb, 0xff, 0xff, 0xff]) base)
      (fun t => decide (t.regs.control = 3 ∧ t.ctrl = .idle)) = true ∧
    after (deliver (.write 0xff0000 [3, 0, 0, 0]) done)
      (fun t => decide (t.ctrl = .done ∧ t.regs.status = 2 ∧ t.irqLog = [0])) = true := by decide

/-- V19e, in DONE. -/
theorem test_wr32Status :
    after (deliver (.write 0xff0004 [0, 0, 0, 0]) done)
      (fun t => decide (t.regs = done.regs ∧ t.fatal = none ∧ t.reply = some [])) = true := by decide

/-- V19c. -/
theorem test_wr32SrcAddr :
    after (exec (.wr32SrcAddr 0xffffffff) base)
      (fun t => decide (t.regs = { base.regs with srcAddr := 0xffffffff })) = true := by decide

theorem test_wr32DstAddr :
    after (exec (.wr32DstAddr 0x1000) base)
      (fun t => decide (t.regs = { base.regs with dstAddr := 0x1000 })) = true := by decide

/-- V10 to V12. -/
theorem test_wr32Width :
    after (exec (.wr32Width 1920) base) (fun t => decide (t.regs.width = 1920)) = true ∧
    after (exec (.wr32Width 1921) armed) (fun t => decide (t.regs.width = 2)) = true ∧
    after (exec (.wr32Width 0xffffffff) armed) (fun t => decide (t.regs.width = 2)) = true := by decide

/-- V14. -/
theorem test_wr32Height :
    after (exec (.wr32Height 1080) base) (fun t => decide (t.regs.height = 1080)) = true ∧
    after (exec (.wr32Height 1081) armed) (fun t => decide (t.regs.height = 2)) = true := by decide

/-- V19a. -/
theorem test_wr32Operation :
    after (exec (.wr32Operation 7) base)
      (fun t => decide (t.regs = { base.regs with operation := 7 })) = true := by decide

/-- V15, V16. -/
theorem test_wr32ScaleFactor :
    after (exec (.wr32ScaleFactor 0) base) (fun t => decide (t.regs.scaleFactor = 100)) = true ∧
    after (exec (.wr32ScaleFactor 0x7fffffff) base) (fun t => decide (t.regs.scaleFactor = 0x7fffffff)) = true ∧
    after (exec (.wr32ScaleFactor 0x80000000) base) (fun t => decide (t.regs.scaleFactor = 100)) = true := by decide

/-- V17, V18. -/
theorem test_wr32RotationAngle :
    after (exec (.wr32RotationAngle 359) base) (fun t => decide (t.regs.rotationAngle = 359)) = true ∧
    after (exec (.wr32RotationAngle 360) base) (fun t => decide (t.regs.rotationAngle = 0)) = true ∧
    after (exec (.wr32RotationAngle 0xfffffe99) base) (fun t => decide (t.regs.rotationAngle = 0xfffffe99)) = true ∧
    after (exec (.wr32RotationAngle 0xfffffe98) base) (fun t => decide (t.regs.rotationAngle = 0)) = true := by decide

/-- V19b. -/
theorem test_wr32ColorFormat :
    after (exec (.wr32ColorFormat 0xdeadbeef) base)
      (fun t => decide (t.regs = { base.regs with colorFormat := 0xdeadbeef })) = true := by decide

/-! ### The completion event -/

/-- V21. -/
theorem test_complete_done :
    after (step armed)
      (fun t =>
        decide (t.ctrl = .done ∧ t.regs.control = 3 ∧ t.regs.status = 2 ∧ t.irqLog = [0] ∧ t.desc = none ∧
          t.pending = none ∧ t.output.readBytes 0 5 = [4, 3, 2, 1, 0] ∧ t.outW = 2 ∧ t.outH = 2)) = true := by decide

/-- V29c: an unknown operation code. -/
theorem test_complete_error :
    after (step { armed with desc := some { halfTurn with operation := 4 }, output := [(0, 5)] })
      (fun t =>
        decide (t.ctrl = .error ∧ t.regs.control = 3 ∧ t.regs.status = 4 ∧ t.irqLog = [0] ∧
          t.output = [(0, 5)])) = true := by decide

/-- V29b, V29d, V29e, V29f: the other causes. -/
theorem test_run_faults :
    run gray ⟨0, 0, 4, 100, 0, 0⟩ [] = .err .zeroDimension ∧
    run gray ⟨2, 2, 2, 100, 0, 0⟩ [] = .err .channelMismatch ∧
    run gray ⟨0, 1920, 1080, 101, 0, 0⟩ [] = .err .outputTooLarge ∧
    run gray ⟨1, 1920, 1080, 100, 45, 0⟩ [] = .err .outputTooLarge := by decide +kernel

/-- S3, steps 2, 6 and 7. -/
theorem test_split_profile :
    after (step armedSplit) (fun t => decide (t = running)) = true ∧
    after (deliver (.write 0xff0000 [0, 0, 0, 0]) running)
      (fun t => decide (t = { running with reply := some [] })) = true ∧
    after (step running)
      (fun t => decide (t.ctrl = .done ∧ t.output.readBytes 0 4 = [4, 3, 2, 1] ∧ t.irqLog = [0])) = true := by decide

/-- Rule R172, P5: a violation changes only `fatal`, and the next step is a fault. -/
theorem test_violation_stops :
    after (deliver (.write 0xff0000 [5, 0]) armed)
      (fun t => decide (t = { armed with fatal := some .partialRegisterAccess })) = true ∧
    (match step { armed with fatal := some .partialRegisterAccess } with
      | .fault r => decide (r = .stopped .partialRegisterAccess)
      | .next _ => false
      | .refused _ => false) = true := by decide

/-- Rule R118, the timed reading: time does not pass the deadline, and the event fires there. -/
theorem test_timed_reading :
    after (step { armedTimed with events := [.advance 10] })
      (fun t => decide (t.now = 5 ∧ t.ctrl = .armed ∧ t.events = [.advance 7])) = true ∧
    after (step { armedTimed with events := [.complete] }) (fun t => decide (t.ctrl = .armed ∧ t.now = 2)) = true ∧
    after (step { armedTimed with now := 5, events := [.advance 7] })
      (fun t => decide (t.ctrl = .done ∧ t.now = 5)) = true := by decide

/-! ### Operations -/

/-- The output of an operation on `img` is the image of `w` by `h` bytes `out`. -/
def gives (i : Instr) (ch : Nat) (img : List Byte) (w h : Nat) (out : List Byte) : Bool :=
  after (exec i (processing ch ⟨0, 0, 0, 100, 0, 0⟩ img))
    (fun t => decide (t.ctrl = .done ∧ t.outW = w ∧ t.outH = h ∧ t.output.readBytes 0 out.length = out))

/-- V30, V32. -/
theorem test_opScale :
    gives (.opScale 3 2 200) 1 [1, 2, 3, 4, 5, 6] 6 4
      [1, 1, 2, 2, 3, 3, 1, 1, 2, 2, 3, 3, 4, 4, 5, 5, 6, 6, 4, 4, 5, 5, 6, 6] = true ∧
    gives (.opScale 3 2 50) 1 [1, 2, 3, 4, 5, 6] 2 1 [1, 3] = true := by decide

/-- V35, V37, V39: ties, an empty result, and three channels. -/
theorem test_opScale_corners :
    gives (.opScale 5 1 70) 1 [10, 20, 30, 40, 50] 4 1 [10, 20, 30, 50] = true ∧
    gives (.opScale 1 1 49) 1 [9] 0 0 [] = true ∧
    gives (.opScale 2 1 200) 3 [1, 2, 3, 4, 5, 6] 4 2
      [1, 2, 3, 1, 2, 3, 4, 5, 6, 4, 5, 6, 1, 2, 3, 1, 2, 3, 4, 5, 6, 4, 5, 6] = true := by decide

/-- V40. -/
theorem test_opRotate0 : gives (.opRotate0 3 2) 1 [1, 2, 3, 4, 5, 6] 3 2 [1, 2, 3, 4, 5, 6] = true := by decide

/-- V41, V45. -/
theorem test_opRotate90 :
    gives (.opRotate90 3 2) 1 [1, 2, 3, 4, 5, 6] 2 3 [4, 1, 5, 2, 6, 3] = true ∧
    gives (.opRotate90 2 1) 3 [1, 2, 3, 4, 5, 6] 1 2 [1, 2, 3, 4, 5, 6] = true := by decide

/-- V42, V45. -/
theorem test_opRotate180 :
    gives (.opRotate180 3 2) 1 [1, 2, 3, 4, 5, 6] 3 2 [6, 5, 4, 3, 2, 1] = true ∧
    gives (.opRotate180 2 1) 3 [1, 2, 3, 4, 5, 6] 2 1 [4, 5, 6, 1, 2, 3] = true := by decide

/-- V42a, V45. -/
theorem test_opRotate270 :
    gives (.opRotate270 3 2) 1 [1, 2, 3, 4, 5, 6] 2 3 [3, 6, 2, 5, 1, 4] = true ∧
    gives (.opRotate270 2 1) 3 [1, 2, 3, 4, 5, 6] 1 2 [4, 5, 6, 1, 2, 3] = true := by decide

/-- V44. -/
theorem test_opRotateGen :
    gives (.opRotateGen 3 2 30) 1 [1, 2, 3, 4, 5, 6] 4 3 [255, 255, 255, 255, 255, 4, 2, 3, 255, 4, 5, 3] = true := by
  decide +kernel

/-- V29f's canvas, and a turn past 180°. By rules R145 and R146 the canvas of a 1 by 1 image at 225° is 1 by 1, and its
pixel, at offset (-1/2, -1/2) from the centre, maps to (1/2 + 0.7071, 1/2), which is outside. -/
theorem test_opRotateGen_corners :
    idealCanvas gray 1920 1080 45 = (2121, 2121) ∧
    gives (.opRotateGen 1 1 225) 1 [7] 1 1 [255] = true := by decide +kernel

/-- V57. -/
theorem test_opRgbToYuv :
    gives (.opRgbToYuv 2 1) 3 [255, 0, 0, 12, 200, 77] 2 1 [76, 84, 255, 129, 98, 43] = true := by decide

/-- V50a, V52a, V52b. -/
theorem test_opRgbToYuv_corners :
    gives (.opRgbToYuv 3 1) 3 [255, 255, 255, 255, 255, 0, 0, 255, 255] 3 1
      [255, 128, 128, 225, 0, 148, 178, 171, 0] = true := by decide

/-- V54, V54a, V54b, V55a. -/
theorem test_opYuvToRgb :
    gives (.opYuvToRgb 2 2) 3 [0, 0, 0, 255, 255, 255, 128, 0, 0, 100, 50, 200] 2 2
      [0, 135, 0, 255, 120, 255, 0, 255, 0, 201, 75, 0] = true := by decide

/-- Rule R145's `cos` and `sin`: ninety turns of one degree from (1, 0) give (0, 1) to 2000 bits. -/
theorem test_trig_quarter_turn :
    (quarterTurn 90).1 < 2 ^ 48 ∧ 2 ^ trigBits - 2 ^ 48 < (quarterTurn 90).2 ∧
    (quarterTurn 90).2 < 2 ^ trigBits + 2 ^ 48 := by decide +kernel

/-! ### Witnesses: the invariant in every controller state -/

theorem witness_inv_armed : Inv armed :=
  ⟨by decide, by decide, by decide, by decide, by decide, by decide, ⟨by decide, by decide, by decide, by decide⟩,
    fun d h => by cases h; exact ⟨by decide, by decide, by decide, by decide⟩, by decide, by decide, by decide, by decide,
    by decide, fun h => by cases h⟩

theorem witness_inv_armedSplit : Inv armedSplit :=
  ⟨by decide, by decide, by decide, by decide, by decide, by decide, ⟨by decide, by decide, by decide, by decide⟩,
    fun d h => by cases h; exact ⟨by decide, by decide, by decide, by decide⟩, by decide, by decide, by decide, by decide,
    by decide, fun h => by cases h⟩

theorem witness_inv_armedTimed : Inv armedTimed :=
  ⟨by decide, by decide, by decide, by decide, by decide, by decide, ⟨by decide, by decide, by decide, by decide⟩,
    fun d h => by cases h; exact ⟨by decide, by decide, by decide, by decide⟩, by decide, by decide, by decide, by decide,
    by decide, fun _ t h => by cases h; decide⟩

theorem witness_inv_running : Inv running :=
  ⟨by decide, by decide, by decide, by decide, by decide, by decide, ⟨by decide, by decide, by decide, by decide⟩,
    fun d h => by cases h; exact ⟨by decide, by decide, by decide, by decide⟩, by decide, by decide, by decide, by decide,
    by decide, fun h => by cases h⟩

theorem witness_inv_done : Inv done :=
  ⟨by decide, by decide, by decide, by decide, by decide, by decide, ⟨by decide, by decide, by decide, by decide⟩,
    (fun d h => by cases h), by decide, by decide, by decide, by decide, by decide, fun h => by cases h⟩

theorem witness_inv_failed : Inv failed :=
  ⟨by decide, by decide, by decide, by decide, by decide, by decide, ⟨by decide, by decide, by decide, by decide⟩,
    (fun d h => by cases h), by decide, by decide, by decide, by decide, by decide, fun h => by cases h⟩

/-! ### Witnesses: decoding and steps -/

theorem witness_DecodeUndoesEncode :
    gray.Legal ∧ (Instr.pixRd 2073599 1).wellFormed gray = true ∧ (Instr.pixWr 0 []).wellFormed gray = true ∧
    (Instr.opRotateGen 3 3 359).wellFormed gray = true ∧ (Instr.opRotateGen 3 3 1).wellFormed gray = true ∧
    (Instr.wr32Control 0xffffffff).wellFormed gray = true ∧ Instr.complete.wellFormed gray = true := by decide

theorem witness_EncodeUndoesDecodeOfTransactions :
    decode gray (.transaction (.write 0xff0024 [1, 2, 3, 4])) = .instr (.wr32ColorFormat 0x04030201) := by decide

/-- The boundary values of the four clauses are those of `test_decode_violations`. -/
theorem witness_ViolationsAreExactlyTheTables :
    gray.Legal ∧ gray.controlBase ≤ (Transaction.read 0xff0000 3).addr ∧
    (Transaction.read 0xff0028 4).addr - gray.controlBase = 0x28 ∧ gray.frameBufferSize = 0x1fa400 := by decide

theorem witness_DescriptorSelectsByCodeAndAngle :
    gray.Legal ∧ (halfTurn.operation = gray.opRotate ∧ halfTurn.rotationAngle.toInt % 360 = 180) ∧
    (0xfffffe99 : Word).toInt % 90 ≠ 0 ∧ (0xfffffef2 : Word).toInt % 360 = 90 ∧ (0xffffffa6 : Word).toInt % 360 = 270 ∧
    (4 : Word) ≠ gray.opScale ∧ (4 : Word) ≠ gray.opRotate ∧ (4 : Word) ≠ gray.opRgbToYuv ∧
    (4 : Word) ≠ gray.opYuvToRgb := by decide

theorem witness_StepRunsTheDecodedTransaction :
    ({ armed with events := [.bus (.read 0xff0004 4)] } : State).fatal = none ∧ armed.cfg.Legal ∧
    decode armed.cfg (.transaction (.read 0xff0004 4)) = .instr .rd32Status := by decide

/-- `armed` on a device at the global address 0x10000000: its `status`, an address past its window, and one below it. -/
theorem witness_DispatchSubtractsTheDeviceBase :
    let s : State := { armed with cfg := { gray with deviceBase := 0x10000000 } }
    s.fatal = none ∧ s.cfg.Legal ∧ decode s.cfg (.transaction (.read 0xff0004 4)) = .instr .rd32Status ∧
    decode s.cfg (.transaction (.read 0xff0028 4)) = .violation .unmappedControlAddress ∧
    (Transaction.read 0xfffffff 1).addr < s.cfg.deviceBase ∧
    (s.deliverGlobal (.read 0x10ff0004 4)).events = [.bus (.read 0xff0004 4)] ∧
    (s.deliverGlobal (.read 0x10000000 1)).events = [.bus (.read 0 1)] := by decide

/-- One state for each clause: ARMED untimed, ARMED at the deadline, ARMED before it, PROCESSING with a known code and with
an unknown one. -/
theorem witness_StepRunsTheControllersCode :
    (armed.fatal = none ∧ armed.cfg.Legal ∧ armed.ctrl = .armed ∧ armed.cfg.timed = false) ∧
    (({ armedTimed with now := 5 } : State).pending = some 5 ∧ armedTimed.cfg.Legal) ∧
    (armedTimed.cfg.timed = true ∧ armedTimed.pending ≠ some armedTimed.now) ∧
    (running.ctrl = .processing ∧ running.desc = some halfTurn ∧
      decode running.cfg (.operation halfTurn) = .instr (.opRotate180 2 2)) ∧
    decode running.cfg (.operation { halfTurn with operation := 4 }) = .unknownOperation :=
  ⟨by decide, by decide, by decide, by decide, by decide⟩

theorem witness_ViolationStopsTheDevice :
    armed.fatal = none ∧ armed.cfg.Legal ∧
    decode armed.cfg (.transaction (.write 0xff0000 [5, 0])) = .violation .partialRegisterAccess ∧
    ({ armed with fatal := some .unmappedAddress } : State).fatal = some .unmappedAddress := by decide

/-- With the invariant's witnesses: both readings with the atomic profile, the split profile, and a running operation. -/
theorem witness_UndisturbedArmedOperationCompletes :
    (armed.fatal = none ∧ armed.ctrl = .armed ∧ armed.events = [] ∧ armed.cfg.processingAtomic = true ∧
      armed.cfg.timed = false) ∧
    (armedTimed.fatal = none ∧ armedTimed.ctrl = .armed ∧ armedTimed.events = [] ∧
      armedTimed.cfg.processingAtomic = true ∧ armedTimed.cfg.timed = true) ∧
    (armedSplit.fatal = none ∧ armedSplit.ctrl = .armed ∧ armedSplit.events = [] ∧
      armedSplit.cfg.processingAtomic = false) ∧
    (running.fatal = none ∧ running.ctrl = .processing ∧ running.events = []) := by decide

theorem witness_QuiescentStateIsFinal : Inv done ∧ Quiescent done :=
  ⟨witness_inv_done, by unfold Quiescent AtRest; decide⟩

/-- Also of every other statement about a step that answers: `armed` completes, `armedSplit` begins, `running` finishes. -/
theorem witness_StepsKeepTheParameters :
    after (step armed) (fun _ => true) = true ∧ after (step armedSplit) (fun _ => true) = true ∧
    after (step running) (fun _ => true) = true ∧ after (step done) (fun _ => true) = true := by decide

/-! ### Witnesses: registers -/

/-- The bounds of each register, on both sides. -/
theorem witness_RejectedWritesChangeNothing :
    base.cfg.maxWidth < (1921 : Word).toNat ∧ (1920 : Word).toNat ≤ base.cfg.maxWidth ∧
    base.cfg.maxHeight < (1081 : Word).toNat ∧ (1080 : Word).toNat ≤ base.cfg.maxHeight ∧
    base.cfg.scaleMax < (0x80000000 : Word).toNat ∧ (0x7fffffff : Word).toNat ≤ base.cfg.scaleMax ∧
    (0xfffffe98 : Word).toInt ≤ -(base.cfg.angleLimit : Int) ∧ (base.cfg.angleLimit : Int) ≤ (360 : Word).toInt ∧
    -(base.cfg.angleLimit : Int) < (0xfffffe99 : Word).toInt ∧ (359 : Word).toInt < base.cfg.angleLimit := by decide

theorem witness_ConfigurationAfterTheTriggerIsNotSeen :
    accepts armed.cfg 90 .rotationAngle = true ∧ accepts armed.cfg 1920 .width = true ∧
    accepts armed.cfg 0 .height = true ∧ accepts armed.cfg 1 .scaleFactor = true ∧
    accepts armed.cfg 0xffffffff .operation = true ∧ accepts armed.cfg 3 .colorFormat = true ∧
    armed.ctrl ≠ .processing ∧ startOf armed.cfg 4 = true := by decide

/-! ### Witnesses: the controller -/

theorem witness_TriggerWriteArms :
    base.cfg.Legal ∧ base.ctrl ≠ .processing ∧ armed.ctrl ≠ .processing ∧ done.ctrl ≠ .processing ∧
    failed.ctrl ≠ .processing ∧ startOf base.cfg 4 = true ∧ startOf base.cfg 0xffffffff = true := by decide

/-- With `witness_inv_armed`. -/
theorem witness_CancellingWriteDiscardsTheOperation :
    armed.ctrl = .armed ∧ startOf armed.cfg 0xfffffffb = false := by decide

/-- With `witness_inv_done` and `witness_inv_failed`. -/
theorem witness_PlainControlWriteKeepsTheState :
    AtRest done ∧ AtRest failed ∧ startOf done.cfg 3 = false := by unfold AtRest; decide

theorem witness_ControlWriteDuringProcessingIsIgnored :
    running.ctrl = .processing ∧ running.desc = some halfTurn ∧ running.cfg.Legal := by decide

theorem witness_CompletionEventRunsTheDescriptor :
    armed.cfg.Legal ∧ armed.ctrl = .armed ∧ armed.desc = some halfTurn ∧ armed.cfg.processingAtomic = true := by decide

/-- Success, and each of the five causes, on the descriptor of `armed` changed in one field. -/
theorem witness_CompletionFailsForTheTabledCauses :
    selectOperation gray halfTurn = some .rotate180 ∧ ({ halfTurn with width := 0 } : Descriptor).width = 0 ∧
    ({ halfTurn with operation := 4 } : Descriptor).operation ≠ gray.opYuvToRgb ∧ gray.channels ≠ 3 ∧
    selectOperation gray ⟨0, 1920, 1080, 101, 0, 0⟩ = some (.scale 101) ∧
    gray.frameBufferSize <
      (outDims gray 1920 1080 (.scale 101)).1 * (outDims gray 1920 1080 (.scale 101)).2 * gray.channels := by decide

theorem witness_SplitProfileDoesWhatTheAtomicEventDoes :
    armedSplit.ctrl = .armed ∧ armedSplit.desc = some halfTurn ∧ armedSplit.cfg.processingAtomic = false ∧
    armed.cfg = { armedSplit.cfg with processingAtomic := true } ∧ armed = { armedSplit with cfg := armed.cfg } := by
  decide

theorem witness_FinishIsTheSelectedOperation :
    decode running.cfg (.operation halfTurn) = .instr (.opRotate180 2 2) := by decide

/-- The transaction clauses; the third is met by `witness_StepsKeepTheParameters` and the invariant's witnesses. -/
theorem witness_ControllerMovesByTheTransitionTable :
    decode gray (.transaction (.write 0xff0000 [4, 0, 0, 0])) = .instr (.wr32Control 4) ∧
    after (deliver (.write 0xff0000 [4, 0, 0, 0]) done) (fun t => decide (t.ctrl = .armed)) = true ∧
    after (deliver (.read 0xff0000 4) done) (fun t => decide (t.ctrl = .done)) = true := by decide

/-- Both clauses: with `IRQ_ENABLE`, in `armed`, and without it. -/
theorem witness_InterruptExactlyAtEnabledCompletion :
    irqEnableOf armed.cfg armed.regs.control = true ∧
    after (step armed) (fun t => decide (t.ctrl = .done ∧ t.irqLog = [0])) = true ∧
    after (step { armed with regs := { armed.regs with control := 5 } })
      (fun t => decide (t.ctrl = .done ∧ t.irqLog = [])) = true := by decide

theorem witness_InterruptOnErrorAsOnSuccess :
    (running.cfg.Legal ∧ running.desc = some halfTurn ∧ running.ctrl = .processing) ∧
    (armed.cfg.Legal ∧ armed.desc = some halfTurn ∧ armed.ctrl = .armed ∧ armed.cfg.processingAtomic = true) :=
  ⟨by decide, by decide⟩

/-- With `witness_inv_done` and `witness_inv_failed`: the bit is set before and clear after. -/
theorem witness_StatusClearsOnlyAtATriggerWrite :
    doneOf done.cfg done.regs.status = true ∧ errorOf failed.cfg failed.regs.status = true ∧
    after (deliver (.write 0xff0000 [4, 0, 0, 0]) done) (fun t => !doneOf done.cfg t.regs.status) = true ∧
    after (deliver (.write 0xff0000 [4, 0, 0, 0]) failed) (fun t => !errorOf failed.cfg t.regs.status) = true := by
  decide

/-- With `witness_inv_armedTimed`: nothing is delivered, and the event fires at 5. -/
theorem witness_TimedCompletionFiresAtItsDeadline :
    armedTimed.cfg.timed = true ∧ armedTimed.ctrl = .armed ∧ armedTimed.events = [] ∧
    after (step armedTimed) (fun t => decide (t.ctrl = .done ∧ t.now = 5)) = true := by decide

/-- With `witness_inv_armedTimed`: the deadline 5 reached from 2 by three units, passed by four, and stood at; and time in
the untimed reading, and a turn at rest. -/
theorem witness_PassingTimeAndIdleTurnsMoveOnlyClockAndList :
    armedTimed.now + 3 ≤ 5 ∧ (armedTimed.now < 5 ∧ 5 < armedTimed.now + 4) ∧ armedTimed.pending = some 5 ∧
    after (step { armedTimed with events := [.advance 4] })
      (fun t => decide (t.now = 5 ∧ t.ctrl = .armed ∧ t.events = [.advance 1])) = true ∧
    after (step { armedTimed with now := 5, events := [.advance 1] })
      (fun t => decide (t.now = 5 ∧ t.ctrl = .done ∧ t.events = [.advance 1])) = true ∧
    after (step { armed with events := [.advance 1] }) (fun t => decide (t.now = 1 ∧ t.ctrl = .armed)) = true ∧
    AtRest done ∧ after (step { done with events := [.complete] }) (fun t => decide (t = done)) = true := by
  unfold AtRest; decide

/-- The invariant at the deadline itself. -/
theorem witness_inv_armedTimed_at_deadline : Inv { armedTimed with now := 5 } :=
  { witness_inv_armedTimed with deadline := fun _ t h => by cases h; decide }

/-! ### Witnesses: buffers -/

theorem witness_PixelWindowReadsOutputAndWritesInput :
    armed.cfg.Legal ∧ armed.cfg.inPixelWindow 0x1fa3ff 1 ∧ armed.cfg.inPixelWindow 0x1fa3ff 0 ∧
    armed.cfg.inPixelWindow 0 0x1fa400 ∧ armed.input.wf = true ∧ armed.ctrl ≠ .processing := by decide

/-- A completion that changes `output`, and a pixel read whose answer shows it. -/
theorem witness_OutputIsTheEnginesToWriteAndTheBusToRead :
    after (step armed) (fun t => decide (t.output ≠ armed.output)) = true ∧
    after (deliver (.read 0 1) done) (fun t => decide (t.reply = some [4])) = true ∧
    after (deliver (.read 0 1) { done with output := [] }) (fun t => decide (t.reply = some [0])) = true := by decide

/-- A transaction in ARMED and in PROCESSING, and a step without one that ends no operation: at rest, BEGIN, and time. -/
theorem witness_InputIsTheBusToWriteAndTheEnginesToRead :
    after (deliver (.write 0 [9]) armed) (fun t => decide (t.input ≠ armed.input ∧ t.ctrl = .armed)) = true ∧
    after (deliver (.read 0 4) running) (fun t => decide (t.ctrl = .processing)) = true ∧
    after (step done) (fun _ => true) = true ∧ done.ctrl ≠ .armed ∧ done.ctrl ≠ .processing ∧
    after (step armedSplit) (fun t => decide (t.ctrl = .processing)) = true ∧
    after (step { armedTimed with events := [.advance 3] }) (fun t => decide (t.ctrl = .armed ∧ t.now = 5)) = true := by
  decide

/-- Two devices with other registers and another output. -/
theorem witness_EndStateStatusAndImageComeFromDescriptorAndInput :
    armed.ctrl = .armed ∧ armed.desc = some halfTurn ∧ armed.cfg.processingAtomic = true ∧
    ({ armed with
        desc := some { halfTurn with colorFormat := 2 }, output := [(0, 5)]
        regs := { armed.regs with width := 9, srcAddr := 1 } } : State).input = armed.input ∧
    after (exec .complete armed) (fun t => decide (t.ctrl = .done)) = true ∧
    after
      (exec .complete
        { armed with
          desc := some { halfTurn with colorFormat := 2 }, output := [(0, 5)]
          regs := { armed.regs with width := 9, srcAddr := 1 } })
      (fun t => decide (t.ctrl = .done)) = true := by decide

/-- The open reset values at the ends of their ranges. -/
theorem witness_EveryConstructionSatisfiesTheInvariant :
    gray.Legal ∧
    ResetValues.Legal gray
      { ResetValues.suggested with
        width := 1920, height := 1080, scaleFactor := 0x7fffffff, rotationAngle := 0xfffffe99, input := [(2073599, 1)]
        outW := 1080, outH := 1920 } ∧
    ResetValues.Legal gray { ResetValues.suggested with scaleFactor := 1, rotationAngle := 359 } := by decide

/-! ### Witnesses: operations -/

/-- Each cause, the absence of all, and a state other than PROCESSING. -/
theorem witness_OperationsEndInDoneOrForTheTabledCausesInError :
    running.ctrl = .processing ∧ done.ctrl ≠ .processing ∧ AtRest done ∧ running.cfg.channels ≠ 3 ∧
    running.cfg.frameBufferSize < (outDims running.cfg 1920 1080 (.scale 101)).1 *
      (outDims running.cfg 1920 1080 (.scale 101)).2 * running.cfg.channels ∧
    (outDims running.cfg 2 2 .rotate90).1 * (outDims running.cfg 2 2 .rotate90).2 * running.cfg.channels ≤
      running.cfg.frameBufferSize := by unfold AtRest; decide

/-- A result that fills the buffer exactly, and one that is a row too large. -/
theorem witness_ScaleCopiesTheNearestSource :
    running.ctrl = .processing ∧ (1920 : Word) ≠ 0 ∧ scaledSize running.cfg 1920 100 = 1920 ∧
    scaledSize running.cfg 1920 100 * scaledSize running.cfg 1080 100 * running.cfg.channels =
      running.cfg.frameBufferSize ∧
    running.cfg.frameBufferSize <
      scaledSize running.cfg 1920 101 * scaledSize running.cfg 1080 101 * running.cfg.channels := by decide

theorem witness_ScaleSourceIsInTheImage :
    1 ≤ gray.scaleOne ∧ 7 < scaledSize gray 3 250 ∧ 0 < scaledSize gray 1 50 := by decide

/-- The hypotheses of the identities and of the quarter turns, at the largest image and the smallest. -/
theorem witness_rotations :
    running.ctrl = .processing ∧ running.cfg.Legal ∧ (1920 : Word) ≠ 0 ∧ (1080 : Word) ≠ 0 ∧
    (1920 : Word).toNat ≤ running.cfg.maxWidth ∧ (1080 : Word).toNat ≤ running.cfg.maxHeight ∧
    (1 : Word) ≠ 0 ∧ (1 : Word).toNat ≤ running.cfg.maxHeight ∧ (100 : Word).toNat = running.cfg.scaleOne := by decide

/-- The second device of the round trips: its `input` holds the first one's output. -/
theorem witness_QuarterTurnsRoundTrip :
    after (exec (.opRotate90 2 2) running)
      (fun t =>
        decide (({ running with input := t.output } : State).cfg = running.cfg ∧
          ({ running with input := t.output } : State).ctrl = .processing)) = true := by decide

/-- V44's canvas, which fits, and V29f's, which does not. -/
theorem witness_GeneralRotationFillsOrCopies :
    generalCanvas running.cfg 3 2 30 = (4, 3) ∧ 4 * 3 * running.cfg.channels ≤ running.cfg.frameBufferSize ∧
    generalCanvas running.cfg 1920 1080 45 = (2121, 2121) ∧
    running.cfg.frameBufferSize < 2121 * 2121 * running.cfg.channels := by decide +kernel

theorem witness_colours :
    (processing 3 halfTurn []).ctrl = .processing ∧ (processing 3 halfTurn []).cfg.channels = 3 ∧
    running.cfg.channels ≠ 3 := by decide

end Sys2Proof.Tests
end

/-! ### The output buffer: its only writer and its only reader (rule R22) -/

namespace Sys2Proof.Machine

/-! #### What the parts of a step do to `output` -/

/-- A control write leaves `output` as it was (rule R92). -/
@[simp] theorem writeControl_output (v : Word) (s : State) : (writeControl v s).output = s.output := by
  by_cases hp : s.ctrl = .processing
  · rw [writeControl_processing hp]
  · cases hs : startOf s.cfg v with
    | true => rw [writeControl_trigger hp hs]
    | false => rw [writeControl_plain hp hs]

/-- A finish that changes `output` has an image, so it ends in DONE (rules R122, R174). -/
theorem finishWith_done_of_output_ne {r : RunResult} {s : State} (h : (finishWith r s).output ≠ s.output) :
    (finishWith r s).ctrl = .done := by
  cases r with
  | ok img => rfl
  | err e => exact absurd rfl h

/-- The same of the run and finish parts of the completion event. -/
theorem finishProcessing_done_of_output_ne {s : State} (h : (finishProcessing s).output ≠ s.output) :
    (finishProcessing s).ctrl = .done := by
  unfold finishProcessing at h ⊢
  split at h
  · exact absurd rfl h
  · exact finishWith_done_of_output_ne h

/-- A decoded transaction leaves `output` as it was. -/
theorem exec_transaction_output {c : Config} {tr : Transaction} {i : Instr} {s t : State}
    (hd : decode c (.transaction tr) = .instr i) (h : exec i s = .next t) : t.output = s.output := by
  obtain ⟨v, -, rfl⟩ | ⟨-, ⟨r, -, rfl⟩ | ⟨r, v, -, -, rfl⟩ | ⟨a, n, -, -, -, rfl⟩ | ⟨a, d, -, -, -, -, rfl⟩⟩ :=
    exec_transaction_cases hd h
  · simp
  all_goals rfl

/-- A turn of the controller that changes `output` ends an operation in DONE. -/
theorem controllerTurn_done_of_output_ne {s t : State} (h : controllerTurn s = .next t) (hne : t.output ≠ s.output) :
    (s.ctrl = .armed ∨ s.ctrl = .processing) ∧ t.ctrl = .done := by
  obtain ⟨hc, he⟩ | ⟨hc, d, -, rfl⟩ | ⟨-, -, rfl⟩ := controllerTurn_cases h
  · rw [execComplete_armed hc] at he
    cases he
    refine ⟨.inl hc, ?_⟩
    split_ifs at hne ⊢
    · exact finishProcessing_done_of_output_ne hne
    · exact absurd rfl hne
  · exact ⟨.inr hc, finishWith_done_of_output_ne hne⟩
  · exact absurd rfl hne

/-- A step that changes `output` is no transaction and ends an operation in DONE (rule R122). -/
theorem step_done_of_output_ne {s t : State} (h : step s = .next t) (hne : t.output ≠ s.output) :
    (s.ctrl = .armed ∨ s.ctrl = .processing) ∧ t.ctrl = .done ∧ ∀ tr rest, s.events ≠ .bus tr :: rest := by
  obtain ⟨-, -, hcases⟩ := step_cases h
  obtain ⟨tr, rest, i, -, hd, he⟩ | ⟨tr, rest, r, -, -, rfl⟩ | ⟨hbus, now, events, ht, -⟩ |
    ⟨-, now, events, rfl, -⟩ := hcases
  · exact absurd (exec_transaction_output hd he) hne
  · exact absurd rfl hne
  · obtain ⟨hc, hdone⟩ := controllerTurn_done_of_output_ne ht hne
    exact ⟨hc, hdone, hbus⟩
  · exact absurd rfl hne

/-! #### Two devices that differ in `output` -/

/-- The device `s` with the buffer `m` for its `output`. -/
def State.withOutput (m : Memory) (s : State) : State := { s with output := m }

@[simp] theorem withOutput_desc (m : Memory) (s : State) : (s.withOutput m).desc = s.desc := rfl
@[simp] theorem withOutput_cfg (m : Memory) (s : State) : (s.withOutput m).cfg = s.cfg := rfl

/-- `f` reads nothing of `output`: a device with another one goes to the same next state, with that other output still
in it or, where `f` writes the whole buffer, with the same output too. -/
def IgnoresOutput (f : State → Host.Outcome State Fault Refusal) : Prop :=
  ∀ (s t : State) (m : Memory), f s = .next t →
    f (s.withOutput m) = .next (t.withOutput m) ∨ f (s.withOutput m) = .next t

/-- A control write reads nothing of `output`. -/
theorem writeControl_withOutput (v : Word) (s : State) (m : Memory) :
    writeControl v (s.withOutput m) = (writeControl v s).withOutput m := by
  by_cases hp : s.ctrl = .processing
  · rw [writeControl_processing hp, writeControl_processing (s := s.withOutput m) hp]
  · cases hs : startOf s.cfg v with
    | true =>
      rw [writeControl_trigger hp hs, writeControl_trigger (s := s.withOutput m) hp hs]
      rfl
    | false =>
      rw [writeControl_plain hp hs, writeControl_plain (s := s.withOutput m) hp hs]
      rfl

/-- A finish reads nothing of `output`: an image replaces it whole, and a fault leaves it (rules R122, R174). -/
theorem finishWith_withOutput (r : RunResult) (s : State) (m : Memory) :
    finishWith r (s.withOutput m) = (finishWith r s).withOutput m ∨
      finishWith r (s.withOutput m) = finishWith r s := by
  cases r with
  | ok img => exact .inr rfl
  | err e => exact .inl rfl

/-- The run and finish parts of the completion event read nothing of `output`. -/
theorem finishProcessing_withOutput (s : State) (m : Memory) :
    finishProcessing (s.withOutput m) = (finishProcessing s).withOutput m ∨
      finishProcessing (s.withOutput m) = finishProcessing s := by
  simp only [finishProcessing, withOutput_desc]
  cases s.desc with
  | none => exact .inl rfl
  | some d => exact finishWith_withOutput _ s m

/-- The controller's turn in ARMED: the completion event, or its begin part (rules R119, R124). -/
theorem controllerTurn_armed {s : State} (h : s.ctrl = .armed) :
    controllerTurn s =
      .next (if s.cfg.processingAtomic then finishProcessing (beginProcessing s) else beginProcessing s) := by
  rw [← execComplete_armed h]
  simp only [controllerTurn, h, runCode, decode]

/-- The controller's turn in PROCESSING: FINISH (rule R124). -/
theorem controllerTurn_processing {s : State} (h : s.ctrl = .processing) :
    controllerTurn s = .next (finishProcessing s) := by
  cases hd : s.desc with
  | none => simp only [controllerTurn, finishProcessing, h, hd]
  | some d => simp only [controllerTurn, finishProcessing, h, hd, runCode_operation h]

/-- The controller's turn at rest changes nothing (rule R127). -/
theorem controllerTurn_atRest {s : State} (h : AtRest s) : controllerTurn s = .next s := by
  obtain h | h | h := h <;> simp only [controllerTurn, h]

theorem atRest_of_ne {s : State} (ha : s.ctrl ≠ .armed) (hp : s.ctrl ≠ .processing) : AtRest s := by
  unfold AtRest
  cases hc : s.ctrl <;> simp_all

/-- The controller's turn reads nothing of `output`. -/
theorem controllerTurn_ignoresOutput : IgnoresOutput controllerTurn := by
  intro s t m h
  by_cases ha : s.ctrl = .armed
  · rw [controllerTurn_armed ha] at h
    rw [controllerTurn_armed (s := s.withOutput m) ha, withOutput_cfg]
    cases h
    simp only [Host.Outcome.next.injEq]
    split_ifs
    · exact finishProcessing_withOutput (beginProcessing s) m
    · exact .inl rfl
  by_cases hp : s.ctrl = .processing
  · rw [controllerTurn_processing hp] at h
    rw [controllerTurn_processing (s := s.withOutput m) hp]
    cases h
    simpa only [Host.Outcome.next.injEq] using finishProcessing_withOutput s m
  · have hr := atRest_of_ne ha hp
    rw [controllerTurn_atRest hr] at h
    cases h
    exact .inl (controllerTurn_atRest (s := s.withOutput m) hr)

/-- A step with nothing delivered reads nothing of `output`. -/
theorem undisturbed_ignoresOutput : IgnoresOutput undisturbed := by
  intro s t m h
  unfold undisturbed at h ⊢
  rw [withOutput_cfg]
  split_ifs at h ⊢
  · exact controllerTurn_ignoresOutput _ t m h
  · exact controllerTurn_ignoresOutput s t m h

/-- Time passes freely up to the deadline, and past it in the untimed reading (rule R118). -/
theorem advanceTime_free {s : State} {n : Nat} (rest : List Event)
    (h : ∀ p, s.pending = some p → s.cfg.timed = true → s.now + n ≤ p) :
    advanceTime n rest s = .next { s with now := s.now + n, events := rest } := by
  cases hp : s.pending with
  | none => simp only [advanceTime, hp]
  | some p =>
    simp only [advanceTime, hp]
    exact if_pos (by cases ht : s.cfg.timed <;> simp [h p hp, ht])

/-- In the timed reading time stops at a deadline ahead (rule R118). -/
theorem advanceTime_stops {s : State} {n p : Nat} (rest : List Event) (hp : s.pending = some p)
    (ht : s.cfg.timed = true) (hpast : p < s.now + n) (hahead : s.now < p) :
    advanceTime n rest s = .next { s with now := p, events := .advance (s.now + n - p) :: rest } := by
  simp [advanceTime, hp, ht, Nat.not_le_of_lt hpast, hahead]

/-- In the timed reading the controller acts once the deadline has come (rule R118). -/
theorem advanceTime_due {s : State} {n p : Nat} (rest : List Event) (hp : s.pending = some p)
    (ht : s.cfg.timed = true) (hpast : p < s.now + n) (hdue : ¬ s.now < p) :
    advanceTime n rest s = controllerTurn s := by
  simp [advanceTime, hp, ht, Nat.not_le_of_lt hpast, hdue]

/-- The passage of time reads nothing of `output`. -/
theorem advanceTime_ignoresOutput (n : Nat) (rest : List Event) : IgnoresOutput (advanceTime n rest) := by
  intro s t m h
  by_cases hfree : ∀ p, s.pending = some p → s.cfg.timed = true → s.now + n ≤ p
  · rw [advanceTime_free rest hfree] at h
    cases h
    exact .inl (advanceTime_free (s := s.withOutput m) rest hfree)
  push Not at hfree
  obtain ⟨p, hp, ht, hpast⟩ := hfree
  by_cases hahead : s.now < p
  · rw [advanceTime_stops rest hp ht hpast hahead] at h
    cases h
    exact .inl (advanceTime_stops (s := s.withOutput m) rest hp ht hpast hahead)
  · rw [advanceTime_due rest hp ht hpast hahead] at h
    rw [advanceTime_due (s := s.withOutput m) rest hp ht hpast hahead]
    exact controllerTurn_ignoresOutput s t m h

/-- A step without a transaction reads nothing of `output`. -/
theorem step_withOutput_of_no_transaction {s t : State} (m : Memory) (h : step s = .next t)
    (hb : ∀ tr rest, s.events ≠ .bus tr :: rest) :
    step (s.withOutput m) = .next (t.withOutput m) ∨ step (s.withOutput m) = .next t := by
  obtain ⟨hf, hl, -⟩ := step_cases h
  cases he : s.events with
  | nil =>
    rw [step_undelivered hf hl he] at h
    rw [step_undelivered (s := s.withOutput m) hf hl he]
    exact undisturbed_ignoresOutput s t m h
  | cons e rest =>
    cases e with
    | bus tr => exact absurd he (hb tr rest)
    | complete =>
      have enabled : controllerEnabled (s.withOutput m) = controllerEnabled s := rfl
      rw [step_complete hf hl he] at h
      rw [step_complete (s := s.withOutput m) hf hl he, enabled]
      split_ifs at h ⊢
      · exact controllerTurn_ignoresOutput _ t m h
      · cases h
        exact .inl rfl
    | advance n =>
      rw [step_advance hf hl he] at h
      rw [step_advance (s := s.withOutput m) hf hl he]
      exact advanceTime_ignoresOutput n rest s t m h

/-- `RD32.r` is a register read (rules R82 to R91). -/
theorem exec_readInstr (r : Reg) (s : State) : exec (readInstr r) s = .next (readRegister r s) := by cases r <;> rfl

/-- `WR32.r`, for every register but `control`, is a register write (rules R93 to R101). -/
theorem exec_writeInstr {r : Reg} (h : r ≠ .control) (v : Word) (s : State) :
    exec (writeInstr v r) s = .next (writeRegister r v s) := by
  cases r with
  | control => exact absurd rfl h
  | _ => rfl

/-- A decoded transaction reads nothing of `output` but what a pixel read answers. -/
theorem exec_transaction_withOutput {c : Config} {tr : Transaction} {i : Instr} {s t : State} (m : Memory)
    (hd : decode c (.transaction tr) = .instr i) (h : exec i s = .next t) :
    exec i (s.withOutput m) = .next (t.withOutput m) ∨
      ∃ a n data, tr = .read a n ∧ a < c.controlBase ∧
        exec i (s.withOutput m) = .next (answer data (t.withOutput m)) := by
  obtain ⟨v, rfl, rfl⟩ | ⟨-, ⟨r, rfl, rfl⟩ | ⟨r, v, hr, rfl, rfl⟩ | ⟨a, n, rfl, htr, ha, rfl⟩ |
    ⟨a, d, rfl, -, -, hp, rfl⟩⟩ := exec_transaction_cases hd h
  · left
    simp only [exec, execWr32Control, writeControl_withOutput]
    rfl
  · exact .inl (exec_readInstr r _)
  · exact .inl (exec_writeInstr hr v _)
  · exact .inr ⟨a, n, m.readBytes a n, htr, ha, rfl⟩
  · exact .inl (if_neg hp)

/-- A delivered transaction reads nothing of `output` but what a pixel read answers. -/
theorem step_withOutput_of_transaction {s t : State} {tr : Transaction} {rest : List Event} (m : Memory)
    (h : step s = .next t) (he : s.events = .bus tr :: rest) :
    step (s.withOutput m) = .next (t.withOutput m) ∨
      ∃ a n data, tr = .read a n ∧ a < s.cfg.controlBase ∧
        step (s.withOutput m) = .next (answer data (t.withOutput m)) := by
  obtain ⟨hf, hl, -⟩ := step_cases h
  rw [step_bus hf hl he] at h
  rw [step_bus (s := s.withOutput m) hf hl he]
  unfold runCode at h ⊢
  simp only [withOutput_cfg]
  cases hd : decode s.cfg (.transaction tr) with
  | instr i =>
    simp only [hd] at h ⊢
    exact exec_transaction_withOutput m hd h
  | violation r =>
    simp only [hd] at h ⊢
    cases h
    exact .inl rfl
  | unknownOperation =>
    simp only [hd] at h ⊢
    cases h
    exact .inl rfl

/-- Settles O34: the writer by the cases of a step, the reader by comparing the steps of two devices. -/
theorem outputIsTheEnginesToWriteAndTheBusToRead : Obligations.OutputIsTheEnginesToWriteAndTheBusToRead := by
  refine ⟨fun s t => step_done_of_output_ne, fun s t m h => ?_⟩
  by_cases hb : ∃ tr rest, s.events = .bus tr :: rest
  · obtain ⟨tr, rest, he⟩ := hb
    obtain hu | ⟨a, n, data, rfl, ha, hu⟩ := step_withOutput_of_transaction m h he
    · exact ⟨_, hu, rfl, .inl rfl, fun _ => rfl⟩
    · exact ⟨_, hu, rfl, .inl rfl, fun hctl => absurd (hctl a n rest he) (Nat.not_le_of_lt ha)⟩
  · obtain hu | hu := step_withOutput_of_no_transaction m h fun tr rest he => hb ⟨tr, rest, he⟩
    · exact ⟨_, hu, rfl, .inl rfl, fun _ => rfl⟩
    · exact ⟨t, hu, rfl, .inr rfl, fun _ => rfl⟩

end Sys2Proof.Machine

/-! ### The pixel window: byte `a` of `output` for a read, of `input` for a write (rule R41) -/

namespace Sys2Proof.Machine

/-- A transaction inside the pixel window is a pixel transaction: the window ends below the control window
(rules R7, R61). -/
theorem decode_onPixels {c : Config} (hl : c.Legal) {t : Transaction} (hw : c.inPixelWindow t.addr t.length) :
    decode c (.transaction t) = .instr t.onPixels := by
  obtain ⟨-, -, -, windowsDisjoint, -⟩ := hl
  obtain ⟨startsInside, endsInside⟩ := hw
  have belowControl : ¬ c.controlBase ≤ t.addr := by omega
  have noOverrun : ¬ c.frameBufferSize < t.addr + t.length := by omega
  simp only [decode, decodeTransaction, belowControl, startsInside, noOverrun, if_true, if_false]

/-- `PIX_RD` answers the bytes of `output` (rule R80). -/
theorem exec_pixRd (a n : Nat) (s : State) : exec (.pixRd a n) s = .next (answer (s.output.readBytes a n) s) := rfl

/-- `PIX_WR` outside PROCESSING stores its data in `input` (rule R81). -/
theorem exec_pixWr {s : State} (hp : s.ctrl ≠ .processing) (a : Nat) (data : List Byte) :
    exec (.pixWr a data) s = .next (answer [] { s with input := s.input.writeBytes a data }) := if_neg hp

/-- Settles O32: the decoder's pixel line, then a read of `output` and a write of `input`, byte by byte. -/
theorem pixelWindowReadsOutputAndWritesInput : Obligations.PixelWindowReadsOutputAndWritesInput := by
  constructor
  · intro s a n hl hw
    exact ⟨decode_onPixels (t := .read a n) hl hw, _, exec_pixRd a n s, Memory.readBytes_length _ a n,
      fun k hk => Memory.readBytes_getD hk 0⟩
  · intro s a data hl hwf hw hp
    exact ⟨decode_onPixels (t := .write a data) hl hw, _, exec_pixWr hp a data, rfl,
      fun i => Memory.read_writeBytes_of_wf a i data hwf⟩

end Sys2Proof.Machine

/-! ### Control writes: arming, and cancelling what is armed (rules R112 to R114) -/

namespace Sys2Proof.Machine

/-- `WR32.control` is a control write and answers nothing (rules R60, R92). -/
theorem exec_wr32Control (v : Word) (s : State) : exec (.wr32Control v) s = .next (answer [] (writeControl v s)) := rfl

/-- A cleared `status` has no `BUSY`, and by the next two lemmas no `DONE` and no `ERROR` (rule R112). -/
@[simp] theorem busyOf_zero (c : Config) : busyOf c 0 = false := BitVec.getLsbD_zero
@[simp] theorem doneOf_zero (c : Config) : doneOf c 0 = false := BitVec.getLsbD_zero
@[simp] theorem errorOf_zero (c : Config) : errorOf c 0 = false := BitVec.getLsbD_zero

/-- In ARMED `status` is 0 already (rule R30). -/
theorem status_eq_zero_of_armed {s : State} (hi : Inv s) (ha : s.ctrl = .armed) : s.regs.status = 0 := by
  rw [hi.status, ha]
  rfl

/-- A control write with `START` = 0 in ARMED discards the operation (rule R114). -/
theorem writeControl_cancels {v : Word} {s : State} (ha : s.ctrl = .armed) (hs : startOf s.cfg v = false) :
    writeControl v s =
      { s with
        regs := { s.regs with control := v &&& controlMask s.cfg }
        desc := none
        pending := none
        ctrl := .idle } := by
  have hp : s.ctrl ≠ .processing := by simp [ha]
  rw [writeControl_plain hp hs, if_pos ha, if_pos ha]

/-- Settles O18: the next state is the one of `writeControl_trigger`; the mask keeps the three fields of `control`. -/
theorem triggerWriteArms : Obligations.TriggerWriteArms := by
  intro s v _ hp hs
  refine ⟨_, exec_wr32Control v s, ?_⟩
  rw [writeControl_trigger hp hs]
  exact ⟨rfl, rfl, rfl, busyOf_zero _, doneOf_zero _, errorOf_zero _, (startOf_masked _ v).trans hs,
    enableOf_masked _ v, irqEnableOf_masked _ v, rfl⟩

/-- Settles O19: the next state is the one of `writeControl_cancels`, and the invariant gives its `status`. -/
theorem cancellingWriteDiscardsTheOperation : Obligations.CancellingWriteDiscardsTheOperation := by
  intro s v hi ha hs
  have statusClear : s.regs.status = 0 := status_eq_zero_of_armed hi ha
  refine ⟨_, exec_wr32Control v s, ?_⟩
  rw [writeControl_cancels ha hs]
  exact ⟨rfl, rfl, rfl, (startOf_masked _ v).trans hs, statusClear, enableOf_masked _ v,
    irqEnableOf_masked _ v, rfl⟩

end Sys2Proof.Machine

/-! ### Rotate: the quarter turn (rule R142) -/

namespace Sys2Proof.Machine

/-- In PROCESSING an operation that passes the tests of rule R120 ends in DONE with its transform of the input image in
`output` (rules R119, R122). -/
theorem exec_toInstr_done {op : Operation} {w h : Word} {s : State} (hp : s.ctrl = .processing) (hw : w ≠ 0)
    (hh : h ≠ 0) (hc : isColour op = true → s.cfg.channels = 3)
    (hf : (outDims s.cfg w.toNat h.toNat op).1 * (outDims s.cfg w.toNat h.toNat op).2 * s.cfg.channels ≤
      s.cfg.frameBufferSize) :
    ∃ t, exec (op.toInstr w h) s = .next t ∧ EndedIn .done s t ∧
      t.outW = (outDims s.cfg w.toNat h.toNat op).1 ∧ t.outH = (outDims s.cfg w.toNat h.toNat op).2 ∧
      t.output = Memory.ofBytes
        (transform s.cfg w.toNat h.toNat (s.input.readBytes 0 (w.toNat * h.toNat * s.cfg.channels)) op) := by
  have hw' : w.toNat ≠ 0 := fun h0 => hw (BitVec.eq_of_toNat_eq h0)
  have hh' : h.toNat ≠ 0 := fun h0 => hh (BitVec.eq_of_toNat_eq h0)
  rw [exec_toInstr, operate, if_pos hp, runOperation_ok hw' hh' hc hf, finishWith_ok]
  exact ⟨_, rfl, rfl, rfl, rfl, rfl⟩

/-- An image within the maximum dimensions fits the frame buffer, turned by 90° too (rules R7, R142). -/
theorem swapped_fits {c : Config} {w h : Nat} (hw : w ≤ c.maxWidth) (hh : h ≤ c.maxHeight) :
    h * w * c.channels ≤ c.frameBufferSize := by
  rw [Nat.mul_comm h w]
  exact Nat.mul_le_mul_right _ (Nat.mul_le_mul hw hh)

/-- Pixel `(x, y)` of the image turned by 90° is pixel `(y, h-1-x)` of the input: the inverse of rule R142's map. -/
theorem rotate90Bytes_pixel {c : Config} {m : Memory} {w h x y ch : Nat} (hx : x < h) (hy : y < w)
    (hch : ch < c.channels) :
    (rotate90Bytes c w h (m.readBytes 0 (w * h * c.channels))).getD (pixelIndex c.channels h x y ch) 0 =
      m.read (pixelIndex c.channels w y (h - 1 - x) ch) := by
  have sourceRow : h - 1 - x < h := by omega
  rw [rotate90Bytes, layOut_pixel _ hx hy hch, pixelByte_readBytes hy sourceRow hch]

/-- Settles O45: every output pixel by `rotate90Bytes_pixel`; an input pixel `(x, y)` is the source of `(h-1-y, x)`, since
reflecting a row twice gives it back. -/
theorem rotateByNinetyPermutesThePixels : Obligations.RotateByNinetyPermutesThePixels := by
  intro s w h hp hw hh hwMax hhMax
  obtain ⟨t, hexec, hend, houtW, houtH, hout⟩ :=
    exec_toInstr_done (op := .rotate90) hp hw hh nofun (swapped_fits hwMax hhMax)
  have outputPixel : ∀ x y c, x < h.toNat → y < w.toNat → c < s.cfg.channels →
      t.output.read (pixelIndex s.cfg.channels h.toNat x y c) = inputPixel s w.toNat y (h.toNat - 1 - x) c := by
    intro x y c hx hy hc
    rw [hout, Memory.read_ofBytes]
    exact rotate90Bytes_pixel hx hy hc
  refine ⟨t, hexec, hend, houtW, houtH, fun x y c hx hy hc => ?_, outputPixel⟩
  have reflectTwice : h.toNat - 1 - (h.toNat - 1 - y) = y := by omega
  rw [outputPixel _ x c (by omega) hx hc, reflectTwice]

end Sys2Proof.Machine

/-! ### Protocol violations: the table of rule R171 -/

namespace Sys2Proof

/-- No register is found at an offset exactly when rule R62 lists none there. -/
theorem Reg.ofOffset_eq_none_iff (n : Nat) :
    Reg.ofOffset n = none ↔ n ∉ [0x00, 0x04, 0x08, 0x0c, 0x10, 0x14, 0x18, 0x1c, 0x20, 0x24] := by
  unfold Reg.ofOffset
  split <;> simp_all

/-- The condition on address and length under which rule R171 names each reason. -/
def Transaction.Violates (c : Config) (t : Transaction) : FatalReason → Prop
  | .partialRegisterAccess => c.controlBase ≤ t.addr ∧ t.length ≠ 4
  | .unmappedControlAddress =>
    c.controlBase ≤ t.addr ∧ t.length = 4 ∧
      t.addr - c.controlBase ∉ [0x00, 0x04, 0x08, 0x0c, 0x10, 0x14, 0x18, 0x1c, 0x20, 0x24]
  | .pixelWindowOverrun => t.addr < c.frameBufferSize ∧ c.frameBufferSize < t.addr + t.length
  | .unmappedAddress => c.frameBufferSize ≤ t.addr ∧ t.addr < c.controlBase

/-- A violation the decoder names has the table's condition, on any parameters: each line of rule R61 that gives a reason
tests for that reason's condition. -/
theorem violates_of_decode {c : Config} {t : Transaction} {r : FatalReason}
    (h : decode c (.transaction t) = .violation r) : t.Violates c r := by
  simp only [decode, decodeTransaction] at h
  split_ifs at h with control partialLength inFrame overrun
  · cases h
    exact ⟨control, partialLength⟩
  · split at h
    · cases h
    · next noRegister =>
      cases h
      exact ⟨control, not_not.1 partialLength, (Reg.ofOffset_eq_none_iff _).1 noRegister⟩
  · cases h
    exact ⟨inFrame, overrun⟩
  · cases h
    exact ⟨Nat.le_of_not_lt inFrame, Nat.lt_of_not_le control⟩

/-- A transaction under a condition of the table is decoded as that violation: the pixel window ends below the control
window (rule R7), so no earlier line of rule R61 takes it. -/
theorem decode_of_violates {c : Config} (hl : c.Legal) {t : Transaction} {r : FatalReason} (h : t.Violates c r) :
    decode c (.transaction t) = .violation r := by
  obtain ⟨-, -, -, windowsDisjoint, -⟩ := hl
  cases r with
  | partialRegisterAccess =>
    obtain ⟨control, partialLength⟩ := h
    simp [decode, decodeTransaction, control, partialLength]
  | unmappedControlAddress =>
    obtain ⟨control, whole, noRegister⟩ := h
    simp [decode, decodeTransaction, control, whole, (Reg.ofOffset_eq_none_iff _).2 noRegister]
  | pixelWindowOverrun =>
    obtain ⟨inFrame, overrun⟩ := h
    have belowControl : ¬ c.controlBase ≤ t.addr := by omega
    simp [decode, decodeTransaction, belowControl, inFrame, overrun]
  | unmappedAddress =>
    obtain ⟨pastFrame, belowControl⟩ := h
    simp [decode, decodeTransaction, Nat.not_le_of_lt belowControl, Nat.not_lt_of_le pastFrame]

/-- The decoder names a reason exactly under its condition in rule R171. -/
theorem decode_violation_iff {c : Config} (hl : c.Legal) (t : Transaction) (r : FatalReason) :
    decode c (.transaction t) = .violation r ↔ t.Violates c r :=
  ⟨violates_of_decode, decode_of_violates hl⟩

/-- Settles O3: `decode_violation_iff` at each of the four reasons. -/
theorem violationsAreExactlyTheTables : Obligations.ViolationsAreExactlyTheTables := fun _ t hl =>
  ⟨decode_violation_iff hl t .partialRegisterAccess, decode_violation_iff hl t .unmappedControlAddress,
    decode_violation_iff hl t .pixelWindowOverrun, decode_violation_iff hl t .unmappedAddress⟩

end Sys2Proof

/-! ### The interrupt at the end of an operation (rule R176) -/

namespace Sys2Proof.Machine

/-- With a descriptor the finish part runs it. -/
theorem finishProcessing_some {s : State} {d : Descriptor} (h : s.desc = some d) :
    finishProcessing s = finishWith (run s.cfg d s.input) s := by
  simp only [finishProcessing, h]

/-- What the completion event does to a controller in PROCESSING: FINISH (rule R124). -/
theorem execComplete_processing {s : State} (h : s.ctrl = .processing) :
    exec .complete s = .next (finishProcessing s) := by
  simp only [exec, execComplete, h]

/-- Finishing requests the interrupt by `IRQ_ENABLE` alone, whatever the result (rules R175, R176). -/
theorem finishWith_irqLog (r : RunResult) (s : State) : (finishWith r s).irqLog = irqLogAfter s := by
  cases r with
  | ok img => rw [finishWith_ok, irqLogAfter]
  | err e => rw [finishWith_err, irqLogAfter]

/-- The begin part clears `START` and not `IRQ_ENABLE`, so the request at the end is the one due before it. -/
theorem irqLogAfter_beginProcessing {s : State} (hl : s.cfg.Legal) :
    irqLogAfter (beginProcessing s) = irqLogAfter s := by
  simp only [irqLogAfter, beginProcessing_cfg, beginProcessing_regs, beginProcessing_irqLog, irqEnableOf_clearStart hl]

/-- After finishing, `status` tells the two end states apart (rule R176). -/
theorem finishWith_status (r : RunResult) {s : State} (hl : s.cfg.Legal) :
    ((finishWith r s).ctrl = .done ∧ doneOf s.cfg (finishWith r s).regs.status = true ∧
        errorOf s.cfg (finishWith r s).regs.status = false) ∨
      ((finishWith r s).ctrl = .error ∧ doneOf s.cfg (finishWith r s).regs.status = false ∧
        errorOf s.cfg (finishWith r s).regs.status = true) := by
  obtain ⟨output, outW, outH, ctrl, hctrl, hfinish⟩ := finishWith_frame r s
  rw [hfinish]
  obtain rfl | rfl := hctrl
  · exact .inl ⟨rfl, doneOf_statusOf hl .done, errorOf_statusOf hl .done⟩
  · exact .inr ⟨rfl, doneOf_statusOf hl .error, errorOf_statusOf hl .error⟩

/-- Settles O29: both forms of the event end in `finishWith`, of the device itself or after its begin part. -/
theorem interruptOnErrorAsOnSuccess : Obligations.InterruptOnErrorAsOnSuccess := by
  intro s d hl hd hc
  obtain hp | ⟨ha, hatomic⟩ := hc
  · refine ⟨_, execComplete_processing hp, ?_⟩
    rw [finishProcessing_some hd]
    exact ⟨finishWith_irqLog _ s, finishWith_status _ hl⟩
  · refine ⟨_, execComplete_armed ha, ?_⟩
    rw [if_pos hatomic, finishProcessing_some (s := beginProcessing s) hd]
    exact ⟨(finishWith_irqLog _ _).trans (irqLogAfter_beginProcessing hl),
      finishWith_status _ (s := beginProcessing s) hl⟩

end Sys2Proof.Machine

/-! ### Rejected register writes (rule R173) -/

namespace Sys2Proof.Machine

/-- A register write of a value the register does not accept completes and changes nothing. -/
theorem exec_writeInstr_rejected {r : Reg} {v : Word} {s : State} (h : accepts s.cfg v r = false) :
    exec (writeInstr v r) s = .next { s with reply := some [] } := by
  have notControl : r ≠ .control := by
    rintro rfl
    cases h
  rw [exec_writeInstr notControl, writeRegister_rejected h]

/-- Settles O16: each value is outside what `accepts` takes for its register. -/
theorem rejectedWritesChangeNothing : Obligations.RejectedWritesChangeNothing := by
  refine fun s v => ⟨fun hv => ?_, fun hv => ?_, fun hv => ?_, fun hv => ?_, ?_⟩
  · exact exec_writeInstr_rejected (r := .width) (decide_eq_false (Nat.not_le_of_lt hv))
  · exact exec_writeInstr_rejected (r := .height) (decide_eq_false (Nat.not_le_of_lt hv))
  · refine exec_writeInstr_rejected (r := .scaleFactor) (decide_eq_false fun ⟨positive, belowMax⟩ => ?_)
    obtain rfl | aboveMax := hv
    · exact absurd positive (by decide)
    · exact Nat.not_lt_of_le belowMax aboveMax
  · exact exec_writeInstr_rejected (r := .rotationAngle) (decide_eq_false (by omega))
  · exact exec_writeInstr_rejected (r := .status) rfl

end Sys2Proof.Machine

/-! ### Decoding and encoding: the tables of rules R62, R65 and R140 -/

namespace Sys2Proof

/-- A four-byte transaction at the address of a register is that register's (rules R61, R62). -/
theorem decode_onRegister {c : Config} {t : Transaction} {r : Reg} (ha : t.addr = c.controlBase + r.offset)
    (hlen : t.length = 4) : decode c (.transaction t) = .instr (t.onRegister r) := by
  simp [decode, decodeTransaction, ha, hlen]

@[simp] theorem decode_encodeRead (c : Config) (r : Reg) : decode c (encodeRead c r) = .instr (readInstr r) :=
  decode_onRegister rfl rfl

@[simp] theorem decode_encodeWrite (c : Config) (r : Reg) (v : Word) :
    decode c (encodeWrite c r v) = .instr (writeInstr v r) := by
  rw [encodeWrite, decode_onRegister rfl rfl, Transaction.onRegister, wordOfData_bytesLe32]

theorem encode_readInstr (c : Config) (r : Reg) : encode c (readInstr r) = encodeRead c r := by cases r <;> rfl

theorem encode_writeInstr (c : Config) (r : Reg) (v : Word) : encode c (writeInstr v r) = encodeWrite c r v := by
  cases r <;> rfl

/-- A descriptor with a known operation decodes to that operation's row (rule R65). -/
theorem decode_operation {c : Config} {d : Descriptor} {op : Operation} (h : selectOperation c d = some op) :
    decode c (.operation d) = .instr (op.toInstr d.width d.height) := by
  simp only [decode, h]

/-- A descriptor with no known operation decodes to none (rule R65). -/
theorem decode_unknownOperation {c : Config} {d : Descriptor} (h : selectOperation c d = none) :
    decode c (.operation d) = .unknownOperation := by
  simp only [decode, h]

theorem selectOperation_scale {c : Config} {d : Descriptor} (h : d.operation = c.opScale) :
    selectOperation c d = some (.scale d.scaleFactor) := if_pos h

/-- The rotation code selects a path by the normalised angle: the operation codes differ (rules R6, R140). -/
theorem selectOperation_rotate {c : Config} (hl : c.Legal) {d : Descriptor} (h : d.operation = c.opRotate) :
    selectOperation c d = some (rotationPath (normalAngle d.rotationAngle)) := by
  obtain ⟨-, -, -, -, -, -, ⟨scaleNeRotate, -⟩, -⟩ := hl
  simp [selectOperation, h, scaleNeRotate.symm]

theorem selectOperation_rgbToYuv {c : Config} (hl : c.Legal) {d : Descriptor} (h : d.operation = c.opRgbToYuv) :
    selectOperation c d = some .rgbToYuv := by
  obtain ⟨-, -, -, -, -, -, ⟨-, scaleNe, -, rotateNe, -⟩, -⟩ := hl
  simp [selectOperation, h, scaleNe.symm, rotateNe.symm]

theorem selectOperation_yuvToRgb {c : Config} (hl : c.Legal) {d : Descriptor} (h : d.operation = c.opYuvToRgb) :
    selectOperation c d = some .yuvToRgb := by
  obtain ⟨-, -, -, -, -, -, ⟨-, -, scaleNe, -, rotateNe, rgbNe⟩, -⟩ := hl
  simp [selectOperation, h, scaleNe.symm, rotateNe.symm, rgbNe.symm]

/-- An operation code outside the known set selects nothing (rule R65). -/
theorem selectOperation_eq_none_iff (c : Config) (d : Descriptor) :
    selectOperation c d = none ↔
      d.operation ≠ c.opScale ∧ d.operation ≠ c.opRotate ∧ d.operation ≠ c.opRgbToYuv ∧ d.operation ≠ c.opYuvToRgb := by
  unfold selectOperation
  split_ifs <;> simp_all

/-- An angle that is no multiple of 90 takes the general path (rule R140). -/
theorem rotationPath_general {an : Nat} (h : an % 90 ≠ 0) : rotationPath an = .rotateGen an := by
  unfold rotationPath
  rw [if_neg, if_neg, if_neg, if_neg] <;> omega

/-- The encoder's descriptor of a rotation by `an` degrees decodes to the row of its path (rules R65, R140). -/
theorem decode_encodeRotation {c : Config} (hl : c.Legal) (w h : Word) {an : Nat} (ha : an < 360) :
    decode c (encodeOperation c.opRotate w h (angle := BitVec.ofNat 32 an)) =
      .instr ((rotationPath an).toInstr w h) := by
  rw [encodeOperation, decode_operation (selectOperation_rotate hl rfl), normalAngle_ofNat ha]

/-- Settles O1: a pixel transaction by its window, a register transaction by its offset, a descriptor by its code and
its normalised angle. -/
theorem decodeUndoesEncode : Obligations.DecodeUndoesEncode := by
  intro c i hl hi
  cases i with
  | pixRd a n => exact Machine.decode_onPixels (t := .read a n) hl (of_decide_eq_true hi)
  | pixWr a data => exact Machine.decode_onPixels (t := .write a data) hl (of_decide_eq_true hi)
  | rd32Control => exact decode_encodeRead c .control
  | rd32Status => exact decode_encodeRead c .status
  | rd32SrcAddr => exact decode_encodeRead c .srcAddr
  | rd32DstAddr => exact decode_encodeRead c .dstAddr
  | rd32Width => exact decode_encodeRead c .width
  | rd32Height => exact decode_encodeRead c .height
  | rd32Operation => exact decode_encodeRead c .operation
  | rd32ScaleFactor => exact decode_encodeRead c .scaleFactor
  | rd32RotationAngle => exact decode_encodeRead c .rotationAngle
  | rd32ColorFormat => exact decode_encodeRead c .colorFormat
  | wr32Control v => exact decode_encodeWrite c .control v
  | wr32Status v => exact decode_encodeWrite c .status v
  | wr32SrcAddr v => exact decode_encodeWrite c .srcAddr v
  | wr32DstAddr v => exact decode_encodeWrite c .dstAddr v
  | wr32Width v => exact decode_encodeWrite c .width v
  | wr32Height v => exact decode_encodeWrite c .height v
  | wr32Operation v => exact decode_encodeWrite c .operation v
  | wr32ScaleFactor v => exact decode_encodeWrite c .scaleFactor v
  | wr32RotationAngle v => exact decode_encodeWrite c .rotationAngle v
  | wr32ColorFormat v => exact decode_encodeWrite c .colorFormat v
  | opScale w h f => exact decode_operation (selectOperation_scale rfl)
  | opRotate0 w h => exact decode_encodeRotation hl w h (by decide : 0 < 360)
  | opRotate90 w h => exact decode_encodeRotation hl w h (by decide : 90 < 360)
  | opRotate180 w h => exact decode_encodeRotation hl w h (by decide : 180 < 360)
  | opRotate270 w h => exact decode_encodeRotation hl w h (by decide : 270 < 360)
  | opRotateGen w h an =>
    obtain ⟨belowTurn, notQuarter⟩ := of_decide_eq_true hi
    have := decode_encodeRotation hl w h belowTurn
    rwa [rotationPath_general notQuarter] at this
  | opRgbToYuv w h => exact decode_operation (selectOperation_rgbToYuv hl rfl)
  | opYuvToRgb w h => exact decode_operation (selectOperation_yuvToRgb hl rfl)
  | complete => rfl

/-- What a decoded transaction is: a register's, of four bytes at the register's address, or a pixel transaction
(rule R61). -/
theorem decode_transaction_cases {c : Config} {t : Transaction} {i : Instr} (h : decode c (.transaction t) = .instr i) :
    (∃ r, t.addr = c.controlBase + r.offset ∧ t.length = 4 ∧ i = t.onRegister r) ∨ i = t.onPixels := by
  simp only [decode, decodeTransaction] at h
  split_ifs at h with control whole
  · split at h
    · next r hr =>
      cases h
      have := Reg.offset_of_ofOffset hr
      exact .inl ⟨r, by omega, not_not.1 whole, rfl⟩
    · cases h
  · cases h
    exact .inr rfl

/-- Settles O2: a register transaction is the one at its register's address with the bytes of its value, and a pixel
transaction carries its operands. -/
theorem encodeUndoesDecodeOfTransactions : Obligations.EncodeUndoesDecodeOfTransactions := by
  intro c t i h
  obtain ⟨r, ha, hlen, rfl⟩ | rfl := decode_transaction_cases h
  · cases t with
    | read a n =>
      obtain rfl : a = c.controlBase + r.offset := ha
      obtain rfl : n = 4 := hlen
      exact encode_readInstr c r
    | write a data =>
      obtain rfl : a = c.controlBase + r.offset := ha
      rw [Transaction.onRegister, encode_writeInstr, encodeWrite, bytesLe32_wordOfData hlen]
  · cases t <;> rfl

/-- Settles O5: each known code selects its operation, and a rotation its path by the normalised angle. -/
theorem descriptorSelectsByCodeAndAngle : Obligations.DescriptorSelectsByCodeAndAngle := by
  intro c d hl
  refine ⟨fun hop => decode_operation (selectOperation_scale hop), fun hop => ?_,
    fun hop => decode_operation (selectOperation_rgbToYuv hl hop),
    fun hop => decode_operation (selectOperation_yuvToRgb hl hop),
    fun hop => decode_unknownOperation ((selectOperation_eq_none_iff c d).2 hop)⟩
  rw [decode_operation (selectOperation_rotate hl hop), normalAngle]
  refine ⟨fun ha => by rw [ha]; rfl, fun ha => by rw [ha]; rfl, fun ha => by rw [ha]; rfl, fun ha => by rw [ha]; rfl,
    fun ha => ?_⟩
  rw [rotationPath_general (by omega)]
  rfl

/-- Settles O4: ten closed codes, decoded. -/
theorem writtenOutCodesDecode : Obligations.WrittenOutCodesDecode := by
  unfold Obligations.WrittenOutCodesDecode
  decide

/-- The row of rule R62's table for a register: its offset, its read, and its write of `v`. -/
def Reg.row (v : Word) (r : Reg) : Nat × Instr × Instr := (r.offset, readInstr r, writeInstr v r)

/-- Settles O57: each entry of the list is the row of a register. -/
theorem registerTransactionsDecodeByOffset : Obligations.RegisterTransactionsDecodeByOffset := by
  intro c v p hp
  have isRow : p ∈ [Reg.control, .status, .srcAddr, .dstAddr, .width, .height, .operation, .scaleFactor,
    .rotationAngle, .colorFormat].map (Reg.row v) := hp
  obtain ⟨r, -, rfl⟩ := List.mem_map.1 isRow
  exact ⟨decode_encodeRead c r, decode_encodeWrite c r v⟩

end Sys2Proof

/-! ### The parameters, which no step changes (rules R6, R31) -/

namespace Sys2Proof.Machine

/-- What a control write can change: `control`, `status`, the descriptor, the schedule and the controller state (rule
R92). -/
theorem writeControl_frame (v : Word) (s : State) :
    ∃ control status desc pending ctrl,
      writeControl v s =
        { s with
          regs := { s.regs with control := control, status := status }
          desc := desc
          pending := pending
          ctrl := ctrl } := by
  by_cases hp : s.ctrl = .processing
  · exact ⟨_, _, _, _, _, writeControl_processing hp⟩
  · cases hs : startOf s.cfg v with
    | true => exact ⟨_, _, _, _, _, writeControl_trigger hp hs⟩
    | false => exact ⟨_, _, _, _, _, writeControl_plain hp hs⟩

@[simp] theorem writeControl_cfg (v : Word) (s : State) : (writeControl v s).cfg = s.cfg := by
  obtain ⟨_, _, _, _, _, h⟩ := writeControl_frame v s
  rw [h]

@[simp] theorem finishWith_cfg (r : RunResult) (s : State) : (finishWith r s).cfg = s.cfg := by cases r <;> rfl

@[simp] theorem finishProcessing_cfg (s : State) : (finishProcessing s).cfg = s.cfg := by
  unfold finishProcessing
  split
  · rfl
  · exact finishWith_cfg _ s

theorem controllerTurn_cfg {s t : State} (h : controllerTurn s = .next t) : t.cfg = s.cfg := by
  obtain ⟨armed, he⟩ | ⟨-, d, -, rfl⟩ | ⟨-, -, rfl⟩ := controllerTurn_cases h
  · rw [execComplete_armed armed] at he
    cases he
    split_ifs <;> simp
  · exact finishWith_cfg _ s
  · rfl

theorem exec_transaction_cfg {c : Config} {tr : Transaction} {i : Instr} {s t : State}
    (hd : decode c (.transaction tr) = .instr i) (h : exec i s = .next t) : t.cfg = s.cfg := by
  obtain ⟨v, -, rfl⟩ | ⟨-, ⟨r, -, rfl⟩ | ⟨r, v, -, -, rfl⟩ | ⟨a, n, -, -, -, rfl⟩ | ⟨a, d, -, -, -, -, rfl⟩⟩ :=
    exec_transaction_cases hd h
  · exact writeControl_cfg v s
  all_goals rfl

/-- Settles O11, by the cases of a step. -/
theorem stepsKeepTheParameters : Obligations.StepsKeepTheParameters := by
  intro s t h
  obtain ⟨-, -, hcases⟩ := step_cases h
  obtain ⟨tr, rest, i, -, hd, he⟩ | ⟨tr, rest, r, -, -, rfl⟩ | ⟨-, now, events, ht, -⟩ |
    ⟨-, now, events, rfl, -⟩ := hcases
  · exact (exec_transaction_cfg hd he :)
  · rfl
  · exact (controllerTurn_cfg ht :)
  · rfl

end Sys2Proof.Machine

/-! ### The invariant of rule R30 -/

namespace Sys2Proof.Machine

/-- Nothing is scheduled but in ARMED (rule R30 (e)). -/
theorem Inv.pending_eq_none {s : State} (hi : Inv s) (h : s.ctrl ≠ .armed) : s.pending = none := by
  by_contra hp
  exact h (hi.pending.1 hp)

theorem AtRest.ne_armed {s : State} (h : AtRest s) : s.ctrl ≠ .armed := by
  obtain h | h | h := h <;> simp [h]

theorem AtRest.ne_processing {s : State} (h : AtRest s) : s.ctrl ≠ .processing := by
  obtain h | h | h := h <;> simp [h]

/-- A control write without `START` at rest stores the register and nothing else (rule R115). -/
theorem writeControl_atRest {v : Word} {s : State} (hi : Inv s) (hr : AtRest s) (hs : startOf s.cfg v = false) :
    writeControl v s = { s with regs := { s.regs with control := v &&& controlMask s.cfg } } := by
  rw [writeControl_plain hr.ne_processing hs, if_neg hr.ne_armed, if_neg hr.ne_armed,
    ← hi.pending_eq_none hr.ne_armed]

/-! #### What the invariant does not speak of -/

/-- The environment's list, the answer, `fatal`, and a clock that has not passed the deadline are free in the
invariant. -/
theorem Inv.withEnvironment {s : State} (hi : Inv s) {now : Nat} {events : List Event} {fatal : Option FatalReason}
    {reply : Option (List Byte)} (hd : s.cfg.timed = true → ∀ p, s.pending = some p → now ≤ p) :
    Inv { s with now := now, events := events, fatal := fatal, reply := reply } :=
  { hi with deadline := hd }

theorem Inv.withEvents {s : State} (hi : Inv s) (events : List Event) : Inv { s with events := events } :=
  hi.withEnvironment hi.deadline

theorem Inv.answer {s : State} (hi : Inv s) (data : List Byte) : Inv (answer data s) :=
  hi.withEnvironment hi.deadline

theorem Inv.takeViolation {s : State} (hi : Inv s) (r : FatalReason) : Inv (takeViolation r s) :=
  hi.withEnvironment hi.deadline

/-! #### Each operation keeps it -/

/-- A register takes no value out of its bounds (rule R30 (f)). -/
theorem DescriptorInBounds.set {c : Config} {f : RegFile} (h : DescriptorInBounds c f.snapshot) {r : Reg} {v : Word}
    (ha : accepts c v r = true) : DescriptorInBounds c (f.set v r).snapshot := by
  cases r with
  | width => exact { h with width := of_decide_eq_true ha }
  | height => exact { h with height := of_decide_eq_true ha }
  | scaleFactor => exact { h with scale := of_decide_eq_true ha }
  | rotationAngle => exact { h with angle := of_decide_eq_true ha }
  | operation => exact { h with }
  | colorFormat => exact { h with }
  | control => exact h
  | status => exact h
  | srcAddr => exact h
  | dstAddr => exact h

/-- A register write but that of `control` keeps the invariant: it cannot reach `status`. -/
theorem Inv.writeRegister {s : State} (hi : Inv s) {r : Reg} (hr : r ≠ .control) (v : Word) :
    Inv (writeRegister r v s) := by
  cases ha : accepts s.cfg v r with
  | false =>
    rw [writeRegister_rejected ha]
    exact hi.answer []
  | true =>
    have notStatus : r ≠ .status := by
      rintro rfl
      cases ha
    have control : (s.regs.set v r).control = s.regs.control := RegFile.get_set_of_ne s.regs v hr.symm
    have status : (s.regs.set v r).status = s.regs.status := RegFile.get_set_of_ne s.regs v notStatus.symm
    rw [writeRegister_accepted ha]
    exact
      { hi with
        status := status.trans hi.status
        start := by rw [control]; exact hi.start
        control := by rw [control]; exact hi.control
        registers := hi.registers.set ha }

/-- A control write keeps the invariant: it is ignored, it arms, it cancels, or it stores the enables. -/
theorem Inv.writeControl {s : State} (hi : Inv s) (v : Word) : Inv (writeControl v s) := by
  by_cases hp : s.ctrl = .processing
  · rwa [writeControl_processing hp]
  cases hs : startOf s.cfg v with
  | true =>
    rw [writeControl_trigger hp hs]
    exact
      { hi with
        status := rfl
        start := by simp [hs]
        pending := by simp
        desc := by simp
        control := masked_reserved s.cfg v
        descriptor := fun d hd => Option.some.inj hd ▸ hi.registers
        deadline := fun _ p hp => Option.some.inj hp ▸ Nat.le_add_right _ _ }
  | false =>
    by_cases ha : s.ctrl = .armed
    · rw [writeControl_cancels ha hs]
      exact
        { hi with
          status := (status_eq_zero_of_armed hi ha :)
          start := by simp [hs]
          pending := by simp
          desc := by simp
          control := masked_reserved s.cfg v
          descriptor := nofun
          deadline := nofun }
    · rw [writeControl_atRest hi (atRest_of_ne ha hp) hs]
      exact
        { hi with
          start := by simp [hs, ha]
          control := masked_reserved s.cfg v }

/-- A pixel write within the window keeps `input` canonical and within the frame buffer. -/
theorem Inv.withInput {s : State} (hi : Inv s) {a : Nat} {data : List Byte} (hw : s.cfg.inPixelWindow a data.length) :
    Inv { s with input := s.input.writeBytes a data } :=
  { hi with
    inputWf := Memory.wf_writeBytes a data hi.inputWf
    inputWithin := Memory.within_writeBytes data hw.2 hi.inputWithin }

/-- The begin part of the completion event keeps the invariant. -/
theorem Inv.beginProcessing {s : State} (hi : Inv s) (ha : s.ctrl = .armed) : Inv (beginProcessing s) :=
  { hi with
    status := rfl
    start := by simp
    pending := by simp
    desc := by simp [hi.desc, ha]
    control := clearStart_reserved hi.control
    deadline := nofun }

/-- The finish part keeps the invariant when an image has its dimensions' bytes and fits (rule R30 (g)). -/
theorem Inv.finishWith {s : State} (hi : Inv s) (hp : s.ctrl = .processing) {r : RunResult}
    (hr : ∀ img, r = .ok img →
      img.bytes.length = img.w * img.h * s.cfg.channels ∧ img.w * img.h * s.cfg.channels ≤ s.cfg.frameBufferSize) :
    Inv (finishWith r s) := by
  have startClear : ¬ startOf s.cfg s.regs.control = true := by simp [hi.start, hp]
  have nothingPending : s.pending = none := hi.pending_eq_none (by simp [hp])
  cases r with
  | ok img =>
    obtain ⟨length, fits⟩ := hr img rfl
    rw [finishWith_ok]
    exact
      { hi with
        status := rfl
        start := by simp [startClear]
        pending := by simp [nothingPending]
        desc := by simp
        descriptor := nofun
        outputFits := fits
        outputWf := Memory.wf_ofBytes img.bytes
        outputWithin := Memory.within_ofBytes (length.trans_le fits) }
  | err e =>
    rw [finishWith_err]
    exact
      { hi with
        status := rfl
        start := by simp [startClear]
        pending := by simp [nothingPending]
        desc := by simp
        descriptor := nofun }

/-! #### Every step keeps it -/

/-- A decoded transaction keeps the invariant. -/
theorem Inv.exec_transaction {s t : State} (hi : Inv s) {tr : Transaction} {i : Instr}
    (hd : decode s.cfg (.transaction tr) = .instr i) (h : exec i s = .next t) : Inv t := by
  obtain ⟨v, -, rfl⟩ | ⟨-, ⟨r, -, rfl⟩ | ⟨r, v, hr, -, rfl⟩ | ⟨a, n, -, -, -, rfl⟩ | ⟨a, d, -, -, hw, -, rfl⟩⟩ :=
    exec_transaction_cases hd h
  · exact (hi.writeControl v).answer []
  · exact hi.answer _
  · exact hi.writeRegister hr v
  · exact hi.answer _
  · exact (hi.withInput hw).answer []

/-- What a step with a transaction delivered does: the decoded instruction, or the violation. -/
theorem step_with_transaction {s t : State} {tr : Transaction} {rest : List Event} (h : step s = .next t)
    (he : s.events = .bus tr :: rest) :
    (∃ i, decode s.cfg (.transaction tr) = .instr i ∧ exec i { s with events := rest } = .next t) ∨
      ∃ r, decode s.cfg (.transaction tr) = .violation r ∧ t = takeViolation r { s with events := rest } := by
  obtain ⟨-, -, hcases⟩ := step_cases h
  obtain ⟨tr', rest', i, he', hd, hx⟩ | ⟨tr', rest', r, he', hd, rfl⟩ | ⟨hb, -⟩ | ⟨hb, -⟩ := hcases
  · cases he.symm.trans he'
    exact .inl ⟨i, hd, hx⟩
  · cases he.symm.trans he'
    exact .inr ⟨r, hd, rfl⟩
  · exact absurd he (hb tr rest)
  · exact absurd he (hb tr rest)

/-- What a step without a transaction does from a state of the invariant, after the clock and the list have moved and
the deadline has not passed: nothing more, the completion event or its begin part in ARMED, in the timed reading at the
deadline, or the finish part in PROCESSING (rules R118, R124, R126). -/
theorem step_without_transaction {s t : State} (hi : Inv s) (h : step s = .next t)
    (hb : ∀ tr rest, s.events ≠ .bus tr :: rest) :
    ∃ now events, (s.cfg.timed = true → ∀ p, s.pending = some p → now ≤ p) ∧
      (t = { s with now := now, events := events } ∨
        (s.ctrl = .armed ∧ (s.cfg.timed = true → s.pending = some now) ∧
          ((s.cfg.processingAtomic = true ∧ ∃ d, s.desc = some d ∧
              t = finishWith (run s.cfg d s.input) (beginProcessing { s with now := now, events := events })) ∨
            (s.cfg.processingAtomic = false ∧ t = beginProcessing { s with now := now, events := events }))) ∨
        (s.ctrl = .processing ∧ ∃ d, s.desc = some d ∧
          t = finishWith (run s.cfg d s.input) { s with now := now, events := events })) := by
  obtain ⟨-, -, hcases⟩ := step_cases h
  obtain ⟨tr, rest, i, he, -⟩ | ⟨tr, rest, r, he, -⟩ | ⟨-, now, events, ht, -, hbound, hwhen⟩ |
    ⟨-, now, events, rfl, hbound⟩ := hcases
  · exact absurd he (hb tr rest)
  · exact absurd he (hb tr rest)
  · have notPassed : s.cfg.timed = true → ∀ p, s.pending = some p → now ≤ p := fun htimed p hp =>
      max_eq_right (hi.deadline htimed p hp) ▸ hbound p hp
    have atDeadline : s.ctrl = .armed → s.cfg.timed = true → s.pending = some now := by
      intro armed htimed
      obtain hw | hw | hw | ⟨p, hp, hle⟩ := hwhen
      · simp [htimed] at hw
      · exact absurd armed hw
      · exact absurd hw (hi.pending.2 armed)
      · rw [hp, le_antisymm hle (notPassed htimed p hp)]
    refine ⟨now, events, notPassed, ?_⟩
    obtain ⟨-, rfl⟩ | ⟨d, hd, armed, atomic, rfl⟩ | ⟨armed, split, rfl⟩ | ⟨d, hd, processing, rfl⟩ :=
      controllerTurn_of_inv hi ht
    · exact .inl rfl
    · exact .inr (.inl ⟨armed, atDeadline armed, .inl ⟨atomic, d, hd, rfl⟩⟩)
    · exact .inr (.inl ⟨armed, atDeadline armed, .inr ⟨split, rfl⟩⟩)
    · exact .inr (.inr ⟨processing, d, hd, rfl⟩)
  · exact ⟨now, events, fun htimed p hp => max_eq_right (hi.deadline htimed p hp) ▸ hbound htimed p hp, .inl rfl⟩

/-- Settles O39: a transaction by its instruction's lemma, any other step by the parts of the completion event it
runs. -/
theorem everyStepKeepsTheInvariant : Obligations.EveryStepKeepsTheInvariant := by
  intro s t hi h
  by_cases hb : ∀ tr rest, s.events ≠ .bus tr :: rest
  · obtain ⟨now, events, notPassed, hcases⟩ := step_without_transaction hi h hb
    have moved : Inv { s with now := now, events := events } := hi.withEnvironment notPassed
    obtain rfl | ⟨armed, -, ⟨-, d, -, rfl⟩ | ⟨-, rfl⟩⟩ | ⟨processing, d, -, rfl⟩ := hcases
    · exact moved
    · exact (moved.beginProcessing armed).finishWith rfl fun img hr => run_image hr
    · exact moved.beginProcessing armed
    · exact moved.finishWith processing fun img hr => run_image hr
  · push Not at hb
    obtain ⟨tr, rest, he⟩ := hb
    obtain ⟨i, hd, hx⟩ | ⟨r, -, rfl⟩ := step_with_transaction h he
    · exact (hi.withEvents rest).exec_transaction hd hx
    · exact (hi.withEvents rest).takeViolation r

/-- Settles O38: the open values are in their bounds by `ResetValues.Legal`, and the fixed ones are those of IDLE. -/
theorem everyConstructionSatisfiesTheInvariant : Obligations.EveryConstructionSatisfiesTheInvariant := by
  intro c r hl ⟨width, height, scale, angle, ⟨inputWf, inputWithin⟩, ⟨outputWf, outputWithin⟩, fits⟩
  refine ⟨?_, rfl, rfl, rfl, rfl, rfl, rfl, rfl, rfl, rfl, rfl, rfl, rfl, rfl, rfl, rfl, rfl, rfl, rfl, rfl⟩
  exact
    { legal := hl
      status := rfl
      start := by simp [State.construct, startOf]
      pending := by simp [State.construct]
      desc := by simp [State.construct]
      control := BitVec.zero_and
      registers := ⟨width, height, scale, angle⟩
      descriptor := nofun
      outputFits := fits
      inputWf := inputWf
      inputWithin := inputWithin
      outputWf := outputWf
      outputWithin := outputWithin
      deadline := nofun }

/-- Settles O37: the standard parameters and the suggested values are legal. -/
theorem resetSatisfiesTheInvariant : Obligations.ResetSatisfiesTheInvariant :=
  (everyConstructionSatisfiesTheInvariant Config.standard ResetValues.suggested (by decide) (by decide)).1

end Sys2Proof.Machine

/-! ### Register reads and writes (rules R82 to R101) -/

namespace Sys2Proof.Machine

/-- Writing back what a register holds changes nothing. -/
@[simp] theorem RegFile.set_get_self (f : RegFile) (r : Reg) : f.set (f.get r) r = f := by cases r <;> rfl

/-- A register read answers the bytes of the register and changes nothing else. -/
theorem exec_readInstr_eq (r : Reg) (s : State) :
    exec (readInstr r) s = .next { s with reply := some (bytesLe32 (s.regs.get r)) } := by
  rw [exec_readInstr, readRegister_eq]

/-- A register write stores an accepted value and puts the old one back otherwise (rules R93 to R101, R173). -/
theorem exec_writeInstr_eq {r : Reg} (hr : r ≠ .control) (v : Word) (s : State) :
    exec (writeInstr v r) s =
      .next { s with
        regs := s.regs.set (if accepts s.cfg v r = true then v else s.regs.get r) r, reply := some [] } := by
  rw [exec_writeInstr hr]
  split_ifs with ha
  · rw [writeRegister_accepted ha]
  · rw [writeRegister_rejected (Bool.eq_false_of_not_eq_true ha), RegFile.set_get_self]

/-- Settles O12: the read of each register, at its offset. -/
theorem configurationReadsAnswerTheRegister : Obligations.ConfigurationReadsAnswerTheRegister := by
  have atOffset : ∀ (s : State) (r : Reg),
      decode s.cfg (.transaction (.read (s.cfg.controlBase + r.offset) 4)) = .instr (readInstr r) ∧
        exec (readInstr r) s = .next { s with reply := some (bytesLe32 (s.regs.get r)) } :=
    fun s r => ⟨decode_encodeRead s.cfg r, exec_readInstr_eq r s⟩
  exact fun s => ⟨atOffset s .srcAddr, atOffset s .dstAddr, atOffset s .width, atOffset s .height,
    atOffset s .operation, atOffset s .scaleFactor, atOffset s .rotationAngle, atOffset s .colorFormat⟩

/-- A bit of `control` that is set is one of the three defined ones (rule R30 (f)). -/
theorem Inv.control_defined {s : State} (hi : Inv s) {k : Nat} (hk : s.regs.control.getLsbD k = true) :
    k = s.cfg.ctrlEnableBit ∨ k = s.cfg.ctrlIrqEnableBit ∨ k = s.cfg.ctrlStartBit := by
  have masked : s.regs.control &&& controlMask s.cfg = s.regs.control := by
    have split :
        s.regs.control &&& controlMask s.cfg ||| s.regs.control &&& ~~~ controlMask s.cfg = s.regs.control := by
      rw [← BitVec.and_or_distrib_left, BitVec.or_not_self, BitVec.and_allOnes]
    rw [hi.control] at split
    exact BitVec.or_zero.symm.trans split
  rw [← masked, getLsbD_and_controlMask] at hk
  simpa using (Bool.and_eq_true_iff.1 hk).2

/-- A bit of `status` that is set is one of the three defined ones. -/
theorem statusOf_defined (c : Config) (st : CtrlState) {k : Nat} (hk : (statusOf c st).getLsbD k = true) :
    k = c.statBusyBit ∨ k = c.statDoneBit ∨ k = c.statErrorBit := by
  cases st <;> simp_all [statusOf, getLsbD_bit]

/-- Settles O13: the registers answered are those of the invariant, whose `status` is `statusOf` the controller
state. -/
theorem controlAndStatusReadsShowTheState : Obligations.ControlAndStatusReadsShowTheState := by
  intro s hi
  refine ⟨⟨_, exec_readInstr_eq .control s, rfl, rfl, hi.start, fun k => hi.control_defined⟩,
    ⟨_, exec_readInstr_eq .status s, ?_⟩⟩
  have mirrors : s.regs.get .status = statusOf s.cfg s.ctrl := hi.status
  rw [mirrors]
  exact ⟨by simp [busyOf_statusOf hi.legal], by simp [doneOf_statusOf hi.legal], by simp [errorOf_statusOf hi.legal],
    fun k => statusOf_defined s.cfg s.ctrl⟩

/-- Settles O14: the write of each register, with the values it accepts. -/
theorem sizeAndOperationWrites : Obligations.SizeAndOperationWrites := by
  intro s v
  refine ⟨⟨decode_encodeWrite s.cfg .width v, ?_⟩, ⟨decode_encodeWrite s.cfg .height v, ?_⟩,
    ⟨decode_encodeWrite s.cfg .operation v, exec_writeInstr_eq (r := .operation) (by decide) v s⟩⟩
  · simpa [accepts, writeInstr, RegFile.set, RegFile.get] using exec_writeInstr_eq (r := .width) (by decide) v s
  · simpa [accepts, writeInstr, RegFile.set, RegFile.get] using exec_writeInstr_eq (r := .height) (by decide) v s

/-- Settles O15: the write of each register, with the values it accepts. -/
theorem addressScaleAngleAndFormatWrites : Obligations.AddressScaleAngleAndFormatWrites := by
  intro s v
  refine ⟨exec_writeInstr_eq (r := .srcAddr) (by decide) v s, exec_writeInstr_eq (r := .dstAddr) (by decide) v s,
    exec_writeInstr_eq (r := .colorFormat) (by decide) v s, ?_, ?_⟩
  · simpa only [accepts, decide_eq_true_eq, writeInstr, RegFile.set, RegFile.get] using
      exec_writeInstr_eq (r := .scaleFactor) (by decide) v s
  · simpa only [accepts, decide_eq_true_eq, writeInstr, RegFile.set, RegFile.get] using
      exec_writeInstr_eq (r := .rotationAngle) (by decide) v s

/-- Settles O17: the register by `get_set_self` and `get_set_of_ne`, the next trigger by `writeControl_trigger`. -/
theorem configurationAfterTheTriggerIsNotSeen : Obligations.ConfigurationAfterTheTriggerIsNotSeen := by
  intro s r v hr ha
  have notControl : r ≠ .control := by
    rintro rfl
    simp at hr
  refine ⟨_, exec_writeInstr notControl v s, ?_⟩
  rw [writeRegister_accepted ha]
  refine ⟨RegFile.get_set_self _ v r, rfl, fun q hq => RegFile.get_set_of_ne _ v hq, ?_, fun w hp hs => ?_⟩
  · rw [exec_readInstr_eq, RegFile.get_set_self]
  · refine ⟨_, exec_wr32Control w _, ?_⟩
    rw [writeControl_trigger hp hs]
    exact ⟨rfl, rfl⟩

/-! ### Control writes at rest and during PROCESSING (rules R92, R115, R116) -/

/-- Settles O20: at rest a plain control write is `writeControl_atRest`, and the mask keeps the three fields. -/
theorem plainControlWriteKeepsTheState : Obligations.PlainControlWriteKeepsTheState := by
  intro s v hi hr hs
  refine ⟨_, exec_wr32Control v s, ?_⟩
  rw [writeControl_atRest hi hr hs]
  exact ⟨enableOf_masked _ v, irqEnableOf_masked _ v, (startOf_masked _ v).trans hs, rfl⟩

/-- Settles O21. -/
theorem controlWriteDuringProcessingIsIgnored : Obligations.ControlWriteDuringProcessingIsIgnored := by
  intro s v hp
  rw [exec_wr32Control, writeControl_processing hp]
  rfl

/-- Outside PROCESSING a control write stores the masked value, whatever else it does (rule R92). -/
theorem writeControl_control {v : Word} {s : State} (hp : s.ctrl ≠ .processing) :
    (writeControl v s).regs.control = v &&& controlMask s.cfg := by
  cases hs : startOf s.cfg v with
  | true => rw [writeControl_trigger hp hs]
  | false => rw [writeControl_plain hp hs]

/-- Settles O22: the bits of the masked value. -/
theorem controlWriteStoresTheDefinedBits : Obligations.ControlWriteStoresTheDefinedBits := by
  intro s v hp
  refine ⟨_, exec_wr32Control v s, fun k => ?_⟩
  rw [answer_regs, writeControl_control hp, getLsbD_and_controlMask]

/-- Settles O33. -/
theorem pixelWriteDuringProcessingIsRefused : Obligations.PixelWriteDuringProcessingIsRefused :=
  fun _ _ _ hp => if_pos hp

end Sys2Proof.Machine

/-! ### What one step runs (rules R5, R118, R126, R172) -/

namespace Sys2Proof.Machine

theorem runCode_instr {code : Code} {s : State} {i : Instr} (h : decode s.cfg code = .instr i) :
    runCode code s = exec i s := by
  simp only [runCode, h]

theorem runCode_violation {code : Code} {s : State} {r : FatalReason} (h : decode s.cfg code = .violation r) :
    runCode code s = .next (takeViolation r s) := by
  simp only [runCode, h]

theorem runCode_unknownOperation {code : Code} {s : State} (h : decode s.cfg code = .unknownOperation) :
    runCode code s = .next (finishWith (.err .unknownOperation) s) := by
  simp only [runCode, h]

/-- `COMPLETE` at rest changes nothing (rule R110). -/
theorem execComplete_atRest {s : State} (h : AtRest s) : exec .complete s = .next s := by
  obtain h | h | h := h <;> simp only [exec, execComplete, h]

/-- The controller's turn is the completion event, in every controller state: in PROCESSING it is FINISH. -/
theorem controllerTurn_eq_execComplete (s : State) : controllerTurn s = exec .complete s := by
  by_cases ha : s.ctrl = .armed
  · rw [controllerTurn_armed ha, execComplete_armed ha]
  by_cases hp : s.ctrl = .processing
  · rw [controllerTurn_processing hp, execComplete_processing hp]
  · rw [controllerTurn_atRest (atRest_of_ne ha hp), execComplete_atRest (atRest_of_ne ha hp)]

/-- In PROCESSING the completion event runs the descriptor as a code (rules R119, R124). -/
theorem execComplete_eq_runCode {s : State} {d : Descriptor} (hp : s.ctrl = .processing) (hd : s.desc = some d) :
    exec .complete s = runCode (.operation d) s := by
  rw [execComplete_processing hp, finishProcessing_some hd, runCode_operation hp]

theorem controllerEnabled_armed {s : State} (h : s.ctrl = .armed) :
    controllerEnabled s = (!s.cfg.timed || decide (s.pending = some s.now)) := by
  simp only [controllerEnabled, h]

theorem controllerEnabled_processing {s : State} (h : s.ctrl = .processing) : controllerEnabled s = true := by
  simp only [controllerEnabled, h]

/-- In PROCESSING a turn given to the controller runs its descriptor as a code. -/
theorem step_complete_processing {s : State} {rest : List Event} {d : Descriptor} (hf : s.fatal = none)
    (hl : s.cfg.Legal) (he : s.events = .complete :: rest) (hp : s.ctrl = .processing) (hd : s.desc = some d) :
    step s = runCode (.operation d) { s with events := rest } := by
  rw [step_complete hf hl he, if_pos (controllerEnabled_processing hp), controllerTurn_eq_execComplete,
    execComplete_eq_runCode (s := { s with events := rest }) hp hd]

/-- Settles O6. -/
theorem stepRunsTheDecodedTransaction : Obligations.StepRunsTheDecodedTransaction := by
  intro s t rest i hf hl he hd
  exact (step_bus hf hl he).trans (runCode_instr hd)

/-- Settles O26: both sides run the descriptor as a code. -/
theorem finishIsTheSelectedOperation : Obligations.FinishIsTheSelectedOperation := by
  intro s d i hp hd hdec
  rw [execComplete_eq_runCode hp hd, runCode_instr hdec]

/-- Settles O7: the turn is enabled in ARMED at the deadline, and in the untimed reading always, and in PROCESSING. -/
theorem stepRunsTheControllersCode : Obligations.StepRunsTheControllersCode := by
  intro s rest hf hl he
  refine ⟨fun ha hdue => ?_, fun ha htimed hearly => ?_, fun d i hp hd hdec => ?_, fun d hp hd hdec => ?_⟩
  · have enabled : controllerEnabled s = true := by
      rw [controllerEnabled_armed ha]
      obtain h | h := hdue <;> simp [h]
    rw [step_complete hf hl he, if_pos enabled, controllerTurn_eq_execComplete]
  · have waits : ¬ controllerEnabled s = true := by simp [controllerEnabled_armed ha, htimed, hearly]
    rw [step_complete hf hl he, if_neg waits]
  · exact (step_complete_processing hf hl he hp hd).trans (runCode_instr hdec)
  · exact ⟨_, (step_complete_processing hf hl he hp hd).trans (runCode_unknownOperation hdec), rfl, rfl, rfl, rfl⟩

/-- Settles O8: the violation is taken, and then `fatal` comes before everything else. -/
theorem violationStopsTheDevice : Obligations.ViolationStopsTheDevice := by
  refine ⟨fun s t rest r hf hl he hd => ?_, fun s r hf => ?_⟩
  · exact (step_bus hf hl he).trans (runCode_violation hd)
  · simp only [step, cycle, hf]

/-- The dispatcher delivers a transaction at a global address at its device-local one (rule R6). -/
theorem deliverGlobal_atAddress (s : State) (t : Transaction) :
    s.deliverGlobal (t.atAddress (s.cfg.deviceBase + t.addr)) = { s with events := .bus t :: s.events } := by
  simp only [State.deliverGlobal, Transaction.deviceLocal_atAddress]

/-- Settles O58: the delivered transaction is the next to be decoded and run. -/
theorem dispatchSubtractsTheDeviceBase : Obligations.DispatchSubtractsTheDeviceBase := by
  intro s t hf hl
  have delivered : step (s.deliverGlobal (t.atAddress (s.cfg.deviceBase + t.addr))) = runCode (.transaction t) s := by
    rw [deliverGlobal_atAddress]
    exact step_bus (s := { s with events := .bus t :: s.events }) hf hl rfl
  refine ⟨fun i hd => ?_, fun r hd => ?_, fun below => ?_⟩
  · rw [delivered, runCode_instr hd]
  · rw [delivered, runCode_violation hd]
    rfl
  · have notOurs : t.deviceLocal s.cfg = none := if_neg (Nat.not_le_of_lt below)
    simp only [State.deliverGlobal, notOurs]

/-! #### A step with nothing delivered -/

/-- With nothing scheduled an undisturbed step is the completion event, which does nothing at rest. -/
theorem step_undisturbed {s : State} (hf : s.fatal = none) (hl : s.cfg.Legal) (he : s.events = [])
    (hp : s.pending = none) : step s = exec .complete s := by
  have clockKept : { s with now := max s.now (s.pending.getD 0) } = s := by
    rw [hp, Option.getD_none, Nat.max_zero, ← hp]
  rw [step_undelivered hf hl he, undisturbed, clockKept, ite_self, controllerTurn_eq_execComplete]

/-- In ARMED an undisturbed step is the completion event, in the timed reading at the deadline (rule R126). -/
theorem step_undisturbed_armed {s : State} (hi : Inv s) (hf : s.fatal = none) (he : s.events = [])
    (ha : s.ctrl = .armed) :
    ∃ now, step s = exec .complete { s with now := now } ∧ (s.cfg.timed = true → s.pending = some now) ∧
      (s.cfg.timed = false → now = s.now) := by
  obtain ⟨deadline, hp⟩ := Option.ne_none_iff_exists'.1 (hi.pending.2 ha)
  rw [step_undelivered hf hi.legal he, undisturbed]
  simp only [controllerTurn_eq_execComplete]
  cases htimed : s.cfg.timed with
  | true => exact ⟨deadline, by simp [hp, max_eq_right (hi.deadline htimed deadline hp)], fun _ => hp, nofun⟩
  | false => exact ⟨s.now, by simp, nofun, fun _ => rfl⟩

/-- Finishing ends in DONE or in ERROR (rule R119). -/
theorem finishWith_ctrl (r : RunResult) (s : State) :
    (finishWith r s).ctrl = .done ∨ (finishWith r s).ctrl = .error := by
  cases r with
  | ok img => exact .inl rfl
  | err e => exact .inr rfl

@[simp] theorem finishWith_desc (r : RunResult) (s : State) : (finishWith r s).desc = none := by cases r <;> rfl
@[simp] theorem finishWith_pending (r : RunResult) (s : State) : (finishWith r s).pending = s.pending := by
  cases r <;> rfl
@[simp] theorem finishWith_now (r : RunResult) (s : State) : (finishWith r s).now = s.now := by cases r <;> rfl
@[simp] theorem finishWith_input (r : RunResult) (s : State) : (finishWith r s).input = s.input := by cases r <;> rfl

/-- FINISH of a descriptor. -/
theorem execComplete_processing_some {s : State} {d : Descriptor} (hp : s.ctrl = .processing) (hd : s.desc = some d) :
    exec .complete s = .next (finishWith (run s.cfg d s.input) s) := by
  rw [execComplete_processing hp, finishProcessing_some hd]

/-- The whole completion event of a descriptor, with the atomic profile (rule R124). -/
theorem execComplete_atomic {s : State} {d : Descriptor} (ha : s.ctrl = .armed) (hd : s.desc = some d)
    (hatomic : s.cfg.processingAtomic = true) :
    exec .complete s = .next (finishWith (run s.cfg d s.input) (beginProcessing s)) := by
  rw [execComplete_armed ha, if_pos hatomic, finishProcessing_some (s := beginProcessing s) hd]
  rfl

/-- BEGIN of the split profile (rule R124). -/
theorem execComplete_split {s : State} (ha : s.ctrl = .armed) (hsplit : s.cfg.processingAtomic = false) :
    exec .complete s = .next (beginProcessing s) := by
  rw [execComplete_armed ha, if_neg (by simp [hsplit])]

/-- Settles O9: an armed operation by `step_undisturbed_armed` and the two profiles, a running one by its FINISH. -/
theorem undisturbedArmedOperationCompletes : Obligations.UndisturbedArmedOperationCompletes := by
  intro s hi hf he
  refine ⟨fun ha => ?_, fun hp => ?_⟩
  · obtain ⟨d, hd⟩ := Option.ne_none_iff_exists'.1 (hi.desc.2 (.inl ha))
    obtain ⟨now, hstep, htimed, huntimed⟩ := step_undisturbed_armed hi hf he ha
    rw [hstep]
    cases hprofile : s.cfg.processingAtomic with
    | true =>
      have hx := execComplete_atomic (s := { s with now := now }) ha hd hprofile
      refine ⟨_, hx, ?_, ?_⟩
      · rw [finishWith_now]
        exact hx
      · exact ⟨finishWith_pending _ _, by simpa using htimed, by simpa using huntimed,
          fun _ => ⟨finishWith_ctrl _ _, finishWith_desc _ _⟩, nofun⟩
    | false =>
      have hx := execComplete_split (s := { s with now := now }) ha hprofile
      refine ⟨_, hx, hx, rfl, htimed, huntimed, nofun, fun _ => ⟨rfl, rfl, ?_⟩⟩
      rw [step_undisturbed (s := beginProcessing { s with now := now }) hf hi.legal he rfl,
        execComplete_processing_some (s := beginProcessing { s with now := now }) rfl hd]
      exact ⟨_, rfl, finishWith_ctrl _ _⟩
  · obtain ⟨d, hd⟩ := Option.ne_none_iff_exists'.1 (hi.desc.2 (.inr hp))
    have nothingPending : s.pending = none := hi.pending_eq_none (by simp [hp])
    have hx := execComplete_processing_some hp hd
    exact ⟨_, (step_undisturbed hf hi.legal he nothingPending).trans hx, hx, finishWith_ctrl _ _,
      (finishWith_pending _ s).trans nothingPending, finishWith_desc _ s⟩

/-- Settles O10: at rest nothing is scheduled, and the completion event does nothing. -/
theorem quiescentStateIsFinal : Obligations.QuiescentStateIsFinal := by
  intro s hi ⟨hf, hr, he⟩
  rw [step_undisturbed hf hi.legal he (hi.pending_eq_none hr.ne_armed), execComplete_atRest hr]

/-- Settles O56: a turn at rest by `controllerTurn_atRest`, the passage of time by the three cases of `advanceTime`. -/
theorem passingTimeAndIdleTurnsMoveOnlyClockAndList : Obligations.PassingTimeAndIdleTurnsMoveOnlyClockAndList := by
  intro s rest hi hf
  refine ⟨fun hr he => ?_, fun n he => ?_⟩
  · rw [step_complete hf hi.legal he, controllerTurn_atRest (s := { s with events := rest }) hr, ite_self]
  rw [step_advance hf hi.legal he]
  refine ⟨fun hfree => advanceTime_free rest fun p hp htimed => ?_, fun p htimed hp => ⟨fun hle => ?_, ?_, ?_⟩⟩
  · obtain huntimed | notArmed := hfree
    · exact absurd htimed (by simp [huntimed])
    · exact absurd (hi.pending_eq_none notArmed) (by simp [hp])
  · refine advanceTime_free rest fun q hq _ => ?_
    cases hp.symm.trans hq
    exact hle
  · exact fun ahead past => advanceTime_stops rest hp htimed past ahead
  · intro hdue hn
    rw [advanceTime_due rest hp htimed (by omega) (by omega), controllerTurn_eq_execComplete]

/-! ### The controller's moves, its interrupts and its flags over every step (rules R110, R118, R125, R179) -/

/-- The rows of rule R110's table for a control write. -/
theorem writeControl_ctrl (v : Word) (s : State) :
    (writeControl v s).ctrl =
      if s.ctrl = .processing then .processing
      else if startOf s.cfg v then .armed
      else if s.ctrl = .armed then .idle else s.ctrl := by
  split_ifs with hp hs ha
  · rw [writeControl_processing hp, hp]
  · rw [writeControl_trigger hp hs]
  · rw [writeControl_cancels ha (Bool.eq_false_of_not_eq_true hs)]
  · rw [writeControl_plain hp (Bool.eq_false_of_not_eq_true hs), if_neg ha]

/-- A step with a transaction keeps the controller state unless it is a control write. -/
theorem step_with_transaction_ctrl {s t : State} {tr : Transaction} {rest : List Event} (h : step s = .next t)
    (he : s.events = .bus tr :: rest) :
    (∃ v, decode s.cfg (.transaction tr) = .instr (.wr32Control v) ∧
      t = answer [] (writeControl v { s with events := rest })) ∨
    ((∀ v, decode s.cfg (.transaction tr) ≠ .instr (.wr32Control v)) ∧ t.ctrl = s.ctrl ∧ t.irqLog = s.irqLog) := by
  obtain ⟨i, hd, hx⟩ | ⟨r, hd, rfl⟩ := step_with_transaction h he
  · obtain ⟨v, rfl, rfl⟩ | ⟨notControl, hcases⟩ := exec_transaction_cases hd hx
    · exact .inl ⟨v, hd, rfl⟩
    · refine .inr ⟨fun v hv => notControl v (by rw [hd] at hv; cases hv; rfl), ?_⟩
      obtain ⟨r, -, rfl⟩ | ⟨r, v, -, -, rfl⟩ | ⟨a, n, -, -, -, rfl⟩ | ⟨a, d, -, -, -, -, rfl⟩ := hcases
      all_goals exact ⟨rfl, rfl⟩
  · exact .inr ⟨by simp [hd], rfl, rfl⟩

/-- Settles O27: a control write by `writeControl_ctrl`, any other step by what it runs. -/
theorem controllerMovesByTheTransitionTable : Obligations.ControllerMovesByTheTransitionTable := by
  intro s t hi h
  refine ⟨fun tr rest v he hv => ?_, fun tr rest he hv => ?_, fun hb => ?_⟩
  · obtain ⟨w, hw, rfl⟩ | ⟨notControl, -⟩ := step_with_transaction_ctrl h he
    · cases hw.symm.trans hv
      exact writeControl_ctrl v _
    · exact absurd hv (notControl v)
  · obtain ⟨w, hw, -⟩ | ⟨-, kept, -⟩ := step_with_transaction_ctrl h he
    · exact absurd hw (hv w)
    · exact kept
  · obtain ⟨now, events, -, rfl | ⟨armed, -, ⟨atomic, d, -, rfl⟩ | ⟨split, rfl⟩⟩ | ⟨processing, d, -, rfl⟩⟩ :=
      step_without_transaction hi h hb
    · exact .inl rfl
    · exact .inr (.inl ⟨armed, atomic, finishWith_ctrl _ _⟩)
    · exact .inr (.inr (.inl ⟨armed, split, rfl⟩))
    · exact .inr (.inr (.inr ⟨processing, finishWith_ctrl _ _⟩))

/-- The step from `s` to `t` ends an operation. -/
def EndsOperation (s t : State) : Prop :=
  (s.ctrl = .armed ∨ s.ctrl = .processing) ∧ (t.ctrl = .done ∨ t.ctrl = .error)

theorem not_endsOperation_of_ctrl_eq {s t : State} (h : t.ctrl = s.ctrl) : ¬ EndsOperation s t := by
  rintro ⟨hs, ht⟩
  rw [h] at ht
  obtain hs | hs := hs <;> obtain ht | ht := ht <;> cases hs.symm.trans ht

/-- No control write ends an operation. -/
theorem writeControl_not_endsOperation (v : Word) (s : State) : ¬ EndsOperation s (writeControl v s) := by
  rintro ⟨hs, ht⟩
  rw [writeControl_ctrl] at ht
  split_ifs at ht <;> simp_all

@[simp] theorem writeControl_irqLog (v : Word) (s : State) : (writeControl v s).irqLog = s.irqLog := by
  obtain ⟨_, _, _, _, _, h⟩ := writeControl_frame v s
  rw [h]

/-- A step that ends an operation takes the interrupt log to `irqLogAfter`, and any other leaves it. -/
theorem step_irqLog {s t : State} (hi : Inv s) (h : step s = .next t) :
    (EndsOperation s t ∧ t.irqLog = irqLogAfter s) ∨ (¬ EndsOperation s t ∧ t.irqLog = s.irqLog) := by
  by_cases hb : ∀ tr rest, s.events ≠ .bus tr :: rest
  · obtain ⟨now, events, -, rfl | ⟨armed, -, ⟨-, d, -, rfl⟩ | ⟨-, rfl⟩⟩ | ⟨processing, d, -, rfl⟩⟩ :=
      step_without_transaction hi h hb
    · exact .inr ⟨not_endsOperation_of_ctrl_eq rfl, rfl⟩
    · exact .inl ⟨⟨.inl armed, finishWith_ctrl _ _⟩,
        (finishWith_irqLog _ _).trans
          (irqLogAfter_beginProcessing (s := { s with now := now, events := events }) hi.legal)⟩
    · exact .inr ⟨by simp [EndsOperation], rfl⟩
    · exact .inl ⟨⟨.inr processing, finishWith_ctrl _ _⟩, finishWith_irqLog _ _⟩
  · push Not at hb
    obtain ⟨tr, rest, he⟩ := hb
    obtain ⟨v, -, rfl⟩ | ⟨-, ctrlKept, logKept⟩ := step_with_transaction_ctrl h he
    · exact .inr ⟨writeControl_not_endsOperation v { s with events := rest }, writeControl_irqLog v _⟩
    · exact .inr ⟨not_endsOperation_of_ctrl_eq ctrlKept, logKept⟩

/-- Settles O28, by `step_irqLog`. -/
theorem interruptExactlyAtEnabledCompletion : Obligations.InterruptExactlyAtEnabledCompletion := by
  intro s t hi h
  refine ⟨fun ⟨hs, ht, enabled⟩ => ?_, fun hn => ?_⟩
  · obtain ⟨-, hlog⟩ | ⟨notEnd, -⟩ := step_irqLog hi h
    · rw [hlog, irqLogAfter, if_pos enabled]
    · exact absurd ⟨hs, ht⟩ notEnd
  · obtain ⟨⟨hs, ht⟩, hlog⟩ | ⟨-, hlog⟩ := step_irqLog hi h
    · rw [hlog, irqLogAfter, if_neg fun enabled => hn ⟨hs, ht, enabled⟩]
    · exact hlog

/-- A controller at rest leaves its state only at a trigger write (rule R110). -/
theorem step_atRest_leaves {s t : State} (hi : Inv s) (h : step s = .next t) (hr : AtRest s) (hne : t.ctrl ≠ s.ctrl) :
    ∃ tr rest v, s.events = .bus tr :: rest ∧ decode s.cfg (.transaction tr) = .instr (.wr32Control v) ∧
      startOf s.cfg v = true ∧ t.ctrl = .armed := by
  obtain ⟨controlWrite, otherTransaction, noTransaction⟩ := controllerMovesByTheTransitionTable s t hi h
  by_cases hb : ∀ tr rest, s.events ≠ .bus tr :: rest
  · obtain kept | ⟨armed, -⟩ | ⟨armed, -⟩ | ⟨processing, -⟩ := noTransaction hb
    · exact absurd kept hne
    · exact absurd armed hr.ne_armed
    · exact absurd armed hr.ne_armed
    · exact absurd processing hr.ne_processing
  push Not at hb
  obtain ⟨tr, rest, he⟩ := hb
  by_cases hv : ∀ v, decode s.cfg (.transaction tr) ≠ .instr (.wr32Control v)
  · exact absurd (otherTransaction tr rest he hv) hne
  push Not at hv
  obtain ⟨v, hv⟩ := hv
  have moved := controlWrite tr rest v he hv
  rw [if_neg hr.ne_processing, if_neg hr.ne_armed] at moved
  split_ifs at moved with trigger
  · exact ⟨tr, rest, v, he, hv, trigger, moved⟩
  · exact absurd moved hne

/-- Settles O30: `status` mirrors the controller state before and after the step, so a flag that clears means that DONE
or ERROR was left. -/
theorem statusClearsOnlyAtATriggerWrite : Obligations.StatusClearsOnlyAtATriggerWrite := by
  intro s t hi h hclear
  have hi' := everyStepKeepsTheInvariant s t hi h
  have mirrors : t.regs.status = statusOf s.cfg t.ctrl := stepsKeepTheParameters s t h ▸ hi'.status
  rw [hi.status, mirrors, doneOf_statusOf hi.legal, doneOf_statusOf hi.legal, errorOf_statusOf hi.legal,
    errorOf_statusOf hi.legal] at hclear
  obtain ⟨before, after⟩ | ⟨before, after⟩ := hclear
  · have wasDone := of_decide_eq_true before
    exact step_atRest_leaves hi h (.inr (.inl wasDone)) (wasDone ▸ of_decide_eq_false after)
  · have wasError := of_decide_eq_true before
    exact step_atRest_leaves hi h (.inr (.inr wasError)) (wasError ▸ of_decide_eq_false after)

/-- Settles O31: without a transaction ARMED is left by the completion event or its begin part, which keep the clock. -/
theorem timedCompletionFiresAtItsDeadline : Obligations.TimedCompletionFiresAtItsDeadline := by
  intro s t hi htimed ha hb h hleft
  obtain ⟨now, events, -, rfl | ⟨-, atDeadline, ⟨-, d, -, rfl⟩ | ⟨-, rfl⟩⟩ | ⟨processing, -⟩⟩ :=
    step_without_transaction hi h hb
  · exact absurd ha hleft
  · rw [finishWith_now]
    exact atDeadline htimed
  · exact atDeadline htimed
  · exact absurd (ha.symm.trans processing) (by decide)

end Sys2Proof.Machine

/-! ### The causes of a runtime transform fault (rules R120, R165, R174) -/

namespace Sys2Proof.Machine

/-- The causes of rule R120 for a known operation on a `w` by `h` image, which `runOperation` tests in this order. -/
def RunFails (c : Config) (op : Operation) (w h : Nat) : Prop :=
  (w = 0 ∨ h = 0) ∨ (isColour op = true ∧ c.channels ≠ 3) ∨
    c.frameBufferSize < (outDims c w h op).1 * (outDims c w h op).2 * c.channels

theorem runOperation_eq_err_iff (c : Config) (op : Operation) (w h : Nat) (input : Memory) :
    (∃ e, runOperation c op w h input = .err e) ↔ RunFails c op w h := by
  unfold runOperation RunFails
  split_ifs with zero channels tooLarge
  · exact iff_of_true ⟨_, rfl⟩ (.inl zero)
  · exact iff_of_true ⟨_, rfl⟩ (.inr (.inl channels))
  · exact iff_of_true ⟨_, rfl⟩ (.inr (.inr tooLarge))
  · exact iff_of_false nofun (by tauto)

theorem toNat_eq_zero_iff (v : Word) : v.toNat = 0 ↔ v = 0 := BitVec.toNat_inj (y := 0)

theorem isColour_iff (op : Operation) : isColour op = true ↔ op = .rgbToYuv ∨ op = .yuvToRgb := by
  cases op <;> simp [isColour]

/-- The causes as the statements write them, on register values. -/
theorem runFails_words (c : Config) (op : Operation) (w h : Word) :
    RunFails c op w.toNat h.toNat ↔
      w = 0 ∨ h = 0 ∨ (c.channels ≠ 3 ∧ (op = .rgbToYuv ∨ op = .yuvToRgb)) ∨
        c.frameBufferSize < (outDims c w.toNat h.toNat op).1 * (outDims c w.toNat h.toNat op).2 * c.channels := by
  rw [RunFails, toNat_eq_zero_iff, toNat_eq_zero_iff, isColour_iff, or_assoc, and_comm (a := _ ∨ _)]

/-- `Run` fails for a zero dimension, an unknown operation, a colour operation without three channels, or a result that
does not fit (rule R120). -/
theorem run_eq_err_iff (c : Config) (d : Descriptor) (input : Memory) :
    (∃ e, run c d input = .err e) ↔
      (d.width.toNat = 0 ∨ d.height.toNat = 0) ∨ selectOperation c d = none ∨
        ((∃ op, selectOperation c d = some op ∧ isColour op = true) ∧ c.channels ≠ 3) ∨
        ∃ op, selectOperation c d = some op ∧
          c.frameBufferSize <
            (outDims c d.width.toNat d.height.toNat op).1 * (outDims c d.width.toNat d.height.toNat op).2 *
              c.channels := by
  cases hop : selectOperation c d with
  | none => exact iff_of_true (run_unknown hop input) (.inr (.inl rfl))
  | some op =>
    rw [run_known hop, runOperation_eq_err_iff]
    simp [RunFails]

/-- The codes of the colour operations are those that select one (rules R6, R65). -/
theorem selectOperation_isColour_iff {c : Config} (hl : c.Legal) (d : Descriptor) :
    (∃ op, selectOperation c d = some op ∧ isColour op = true) ↔
      d.operation = c.opRgbToYuv ∨ d.operation = c.opYuvToRgb := by
  constructor
  · rintro ⟨op, hop, hcolour⟩
    unfold selectOperation at hop
    split_ifs at hop with scale rotate rgb yuv
    · cases hop
      cases hcolour
    · cases hop
      unfold rotationPath at hcolour
      split_ifs at hcolour <;> cases hcolour
    · exact .inl rgb
    · exact .inr yuv
  · rintro (h | h)
    · exact ⟨_, selectOperation_rgbToYuv hl h, rfl⟩
    · exact ⟨_, selectOperation_yuvToRgb hl h, rfl⟩

/-- Finishing ends in ERROR exactly on an error result (rule R119). -/
theorem finishWith_ctrl_eq_error_iff (r : RunResult) (s : State) :
    (finishWith r s).ctrl = .error ↔ ∃ e, r = .err e := by
  cases r with
  | ok img => exact iff_of_false nofun nofun
  | err e => exact iff_of_true rfl ⟨e, rfl⟩

/-- An error result ends in ERROR with the output fields kept (rule R174). -/
theorem endedInError_finishWith {r : RunResult} {s : State} (hr : ∃ e, r = .err e) :
    EndedInError s (finishWith r s) := by
  obtain ⟨e, rfl⟩ := hr
  exact ⟨rfl, rfl, rfl, rfl⟩

/-- In PROCESSING a row `OP.*` with a cause of rule R120 ends in ERROR. -/
theorem exec_toInstr_error {op : Operation} {w h : Word} {s : State} (hp : s.ctrl = .processing)
    (hfail : RunFails s.cfg op w.toNat h.toNat) : ∃ t, exec (op.toInstr w h) s = .next t ∧ EndedInError s t := by
  rw [exec_toInstr, operate, if_pos hp]
  exact ⟨_, rfl, endedInError_finishWith ((runOperation_eq_err_iff ..).2 hfail)⟩

/-- Settles O54: the missing channels are a cause of both operations. -/
theorem colourOperationsNeedThreeChannels : Obligations.ColourOperationsNeedThreeChannels := fun _ _ _ hp hch =>
  ⟨exec_toInstr_error (op := .rgbToYuv) hp (.inr (.inl ⟨rfl, hch⟩)),
    exec_toInstr_error (op := .yuvToRgb) hp (.inr (.inl ⟨rfl, hch⟩))⟩

/-- Settles O40: a cause ends in ERROR by `exec_toInstr_error`, none in DONE by `exec_toInstr_done`. -/
theorem operationsEndInDoneOrForTheTabledCausesInError :
    Obligations.OperationsEndInDoneOrForTheTabledCausesInError := by
  intro s op w h
  refine ⟨fun hp => ?_, execComplete_atRest, fun hp => ?_⟩
  · rw [exec_toInstr, operate, if_neg hp]
  rw [← runFails_words]
  refine ⟨exec_toInstr_error hp, fun hok => ?_⟩
  simp only [RunFails, not_or, not_and, not_not, not_lt, toNat_eq_zero_iff] at hok
  obtain ⟨⟨hw, hh⟩, hch, hfits⟩ := hok
  obtain ⟨t, hexec, hend, houtW, houtH, -⟩ := exec_toInstr_done hp hw hh hch hfits
  exact ⟨t, hexec, hend, houtW, houtH⟩

/-! ### The completion event (rules R119 to R124) -/

/-- Settles O23: the event is `finishWith` of `Run` after the begin part; an image has the bytes of `run_image`. -/
theorem completionEventRunsTheDescriptor : Obligations.CompletionEventRunsTheDescriptor := by
  intro s d hl ha hd hatomic
  refine ⟨_, execComplete_atomic ha hd hatomic, ?_⟩
  cases hr : run s.cfg d s.input with
  | ok img =>
    obtain ⟨length, -⟩ := run_image hr
    rw [← irqLogAfter_beginProcessing hl]
    exact ⟨⟨rfl, rfl, rfl, length, fun k _ => Memory.read_ofBytes img.bytes k⟩, startOf_clearStart s.cfg _,
      fun k hk => by simp [finishWith_ok, getLsbD_clearStart, hk], rfl⟩
  | err e =>
    rw [← irqLogAfter_beginProcessing hl]
    exact ⟨⟨rfl, rfl, rfl, rfl⟩, startOf_clearStart s.cfg _,
      fun k hk => by simp [finishWith_err, getLsbD_clearStart, hk], rfl⟩

/-- Settles O24: the event ends in ERROR exactly when `Run` fails, for the causes of `run_eq_err_iff`. -/
theorem completionFailsForTheTabledCauses : Obligations.CompletionFailsForTheTabledCauses := by
  intro s d hl ha hd hatomic
  refine ⟨_, execComplete_atomic ha hd hatomic, finishWith_ctrl _ _, ?_, fun herror => ?_⟩
  · rw [finishWith_ctrl_eq_error_iff, run_eq_err_iff, toNat_eq_zero_iff, toNat_eq_zero_iff,
      selectOperation_eq_none_iff, selectOperation_isColour_iff hl, or_assoc]
  · obtain ⟨-, output, outW, outH⟩ :=
      endedInError_finishWith (s := beginProcessing s) ((finishWith_ctrl_eq_error_iff _ _).1 herror)
    exact ⟨output, outW, outH⟩

/-- Settles O25: FINISH does not read the profile, and its begin part is the atomic event's. -/
theorem splitProfileDoesWhatTheAtomicEventDoes : Obligations.SplitProfileDoesWhatTheAtomicEventDoes := by
  intro s a d ha hd hsplit hcfg hsame
  have armed : a.ctrl = .armed := by rw [hsame]; exact ha
  have desc : a.desc = some d := by rw [hsame]; exact hd
  have sameRun : run a.cfg d a.input = run s.cfg d s.input := by rw [hsame, hcfg]; rfl
  refine ⟨_, finishWith (run s.cfg d s.input) (beginProcessing s), execComplete_split ha hsplit, rfl, rfl,
    startOf_clearStart s.cfg _, hd, rfl, rfl, rfl,
    execComplete_processing_some (s := beginProcessing s) rfl hd, ?_⟩
  rw [execComplete_atomic armed desc (by rw [hcfg]), sameRun, hsame, hcfg]
  cases run s.cfg d s.input <;> rfl

/-- Settles O36: both completions are `finishWith` of one result, since `Run` does not read `color_format`. -/
theorem endStateStatusAndImageComeFromDescriptorAndInput :
    Obligations.EndStateStatusAndImageComeFromDescriptorAndInput := by
  intro s u t t' d fmt ha hd hatomic hua hud hcfg hinput ht ht'
  have sameRun : run u.cfg { d with colorFormat := fmt } u.input = run s.cfg d s.input := by
    rw [hcfg, hinput]
    rfl
  rw [execComplete_atomic ha hd hatomic] at ht
  rw [execComplete_atomic hua hud (hcfg ▸ hatomic), sameRun] at ht'
  cases ht
  cases ht'
  cases hr : run s.cfg d s.input with
  | ok img => exact ⟨rfl, congrArg (statusOf · .done) hcfg, fun _ => ⟨rfl, rfl, rfl⟩⟩
  | err e => exact ⟨rfl, congrArg (statusOf · .error) hcfg, nofun⟩

end Sys2Proof.Machine

/-! ### Images: what an operation leaves in `output`, pixel by pixel -/

namespace Sys2Proof.Machine

/-- Ending an operation keeps the parameters. -/
theorem EndedIn.cfg {c : CtrlState} {s t : State} (h : EndedIn c s t) : t.cfg = s.cfg := by rw [h]

/-- Ending an operation keeps the layout of an image. -/
theorem EndedIn.channels {c : CtrlState} {s t : State} (h : EndedIn c s t) : t.cfg.channels = s.cfg.channels := by
  rw [h]

theorem EndedIn.ctrl {c : CtrlState} {s t : State} (h : EndedIn c s t) : t.ctrl = c := by rw [h]

theorem HoldsImage.pixel {t : State} {w h ch : Nat} {f : Nat → Nat → Nat → Byte} (ht : HoldsImage t w h f)
    (hch : t.cfg.channels = ch) {x y c : Nat} (hx : x < w) (hy : y < h) (hc : c < ch) :
    t.output.read (pixelIndex ch w x y c) = f x y c := by
  subst hch
  exact ht.2.2 x y c hx hy hc

/-- The image in `output` is byte for byte that of a buffer when it is so pixel by pixel. -/
theorem HoldsImage.read_eq {t : State} {w h ch : Nat} {f : Nat → Nat → Nat → Byte} (ht : HoldsImage t w h f)
    (hch : t.cfg.channels = ch) {m : Memory}
    (hm : ∀ x y c, x < w → y < h → c < ch → f x y c = m.read (pixelIndex ch w x y c)) {k : Nat}
    (hk : k < w * h * ch) : t.output.read k = m.read k := by
  obtain ⟨hx, hy, hc, index⟩ := pixelIndex_surjective hk
  rw [← index, ht.pixel hch hx hy hc, hm _ _ _ hx hy hc]

/-- An image copied from `output` of one device to `input` of another shows there pixel by pixel. -/
theorem HoldsImage.inputPixel_copy {t u : State} {w h : Nat} {f : Nat → Nat → Nat → Byte} (ht : HoldsImage t w h f)
    (hch : t.cfg.channels = u.cfg.channels)
    (hcopy : ∀ i, i < w * h * u.cfg.channels → u.input.read i = t.output.read i) {x y c : Nat} (hx : x < w) (hy : y < h)
    (hc : c < u.cfg.channels) : inputPixel u w x y c = f x y c := by
  rw [inputPixel, hcopy _ (pixelIndex_lt hx hy hc), ht.pixel hch hx hy hc]

/-- An operation that passes the tests of rule R120 leaves the image of its transform's pixels. -/
theorem exec_toInstr_holdsImage {op : Operation} {w h : Word} {s : State} {f : Nat → Nat → Nat → Byte}
    (hp : s.ctrl = .processing) (hw : w ≠ 0) (hh : h ≠ 0) (hc : isColour op = true → s.cfg.channels = 3)
    (hf : (outDims s.cfg w.toNat h.toNat op).1 * (outDims s.cfg w.toNat h.toNat op).2 * s.cfg.channels ≤
      s.cfg.frameBufferSize)
    (hpixel : ∀ x y c, x < (outDims s.cfg w.toNat h.toNat op).1 → y < (outDims s.cfg w.toNat h.toNat op).2 →
      c < s.cfg.channels →
      (transform s.cfg w.toNat h.toNat (s.input.readBytes 0 (w.toNat * h.toNat * s.cfg.channels)) op).getD
        (pixelIndex s.cfg.channels (outDims s.cfg w.toNat h.toNat op).1 x y c) 0 = f x y c) :
    ∃ t, exec (op.toInstr w h) s = .next t ∧ EndedIn .done s t ∧
      HoldsImage t (outDims s.cfg w.toNat h.toNat op).1 (outDims s.cfg w.toNat h.toNat op).2 f := by
  obtain ⟨t, hexec, hend, houtW, houtH, hout⟩ := exec_toInstr_done hp hw hh hc hf
  refine ⟨t, hexec, hend, houtW, houtH, ?_⟩
  rw [hend.cfg]
  intro x y c hx hy hch
  rw [hout, Memory.read_ofBytes, hpixel x y c hx hy hch]

/-- An image within the maximum dimensions fits the frame buffer (rule R6). -/
theorem image_fits {c : Config} {w h : Nat} (hw : w ≤ c.maxWidth) (hh : h ≤ c.maxHeight) :
    w * h * c.channels ≤ c.frameBufferSize :=
  Nat.mul_le_mul_right _ (Nat.mul_le_mul hw hh)

/-! ### Scale (rules R130 to R134) -/

/-- In PROCESSING, SCALE of a non-empty image that fits leaves the image of the nearest source pixels. -/
theorem exec_opScale_holdsImage {w h f : Word} {s : State} (hp : s.ctrl = .processing) (hw : w ≠ 0) (hh : h ≠ 0)
    (hf : scaledSize s.cfg w.toNat f.toNat * scaledSize s.cfg h.toNat f.toNat * s.cfg.channels ≤
      s.cfg.frameBufferSize) :
    ∃ t, exec (.opScale w h f) s = .next t ∧ EndedIn .done s t ∧
      HoldsImage t (scaledSize s.cfg w.toNat f.toNat) (scaledSize s.cfg h.toNat f.toNat) fun x y c =>
        if scaleSource s.cfg f.toNat x < w.toNat ∧ scaleSource s.cfg f.toNat y < h.toNat then
          inputPixel s w.toNat (scaleSource s.cfg f.toNat x) (scaleSource s.cfg f.toNat y) c
        else 0 := by
  refine exec_toInstr_holdsImage (op := .scale f) hp hw hh nofun hf fun x y c hx hy hc => ?_
  rw [transform, scaleBytes]
  refine (layOut_pixel _ hx hy hc).trans ?_
  split_ifs with inside
  · exact pixelByte_readBytes inside.1 inside.2 hc
  · rfl

/-- Settles O41: the image of `exec_opScale_holdsImage`, or the cause of size. -/
theorem scaleCopiesTheNearestSource : Obligations.ScaleCopiesTheNearestSource := fun _ _ _ _ hp hw hh =>
  ⟨exec_opScale_holdsImage hp hw hh, fun tooLarge => exec_toInstr_error (op := .scale _) hp (.inr (.inr tooLarge))⟩

/-- Settles O42: `x` is below the size rounded to the nearest, so `x` over the factor is below the size. -/
theorem scaleSourceIsInTheImage : Obligations.ScaleSourceIsInTheImage := by
  intro c n f x hone hf hx
  have rounded : (x + 1) * (2 * c.scaleOne) ≤ 2 * n * f + c.scaleOne := (Nat.le_div_iff_mul_le (by omega)).1 hx
  rw [scaleSource, Nat.div_lt_iff_lt_mul hf]
  linarith

/-- Factor 1.0 keeps a size (rule R132). -/
theorem scaledSize_one {c : Config} (h : 1 ≤ c.scaleOne) (n : Nat) : scaledSize c n c.scaleOne = n := by
  rw [scaledSize, show 2 * n * c.scaleOne = 2 * c.scaleOne * n by ring, Nat.mul_add_div (by omega),
    Nat.div_eq_of_lt (by omega), Nat.add_zero]

/-- Factor 1.0 keeps a coordinate (rule R132). -/
theorem scaleSource_one {c : Config} (h : 1 ≤ c.scaleOne) (x : Nat) : scaleSource c c.scaleOne x = x :=
  Nat.mul_div_cancel x h

/-- Settles O43: with factor 1.0 sizes and sources are the image's own. -/
theorem scaleByOneIsTheIdentity : Obligations.ScaleByOneIsTheIdentity := by
  intro s w h f hl hp hw hh hwMax hhMax hf
  obtain ⟨-, -, -, -, -, -, -, -, one, -⟩ := hl
  obtain ⟨t, hexec, hend, himage⟩ := exec_opScale_holdsImage (f := f) hp hw hh
    (by simpa only [hf, scaledSize_one one] using image_fits hwMax hhMax)
  simp only [hf, scaledSize_one one, scaleSource_one one] at himage
  exact ⟨t, hexec, hend, himage.1, himage.2.1,
    fun k => himage.read_eq hend.channels fun x y c hx hy _ => if_pos ⟨hx, hy⟩⟩

/-! ### The rotations by multiples of 90° (rules R141 to R144, R148) -/

/-- The turns of the four fast paths of rule R140. -/
inductive Turn where
  | none
  | quarter
  | half
  | threeQuarters

/-- The operation of a turn. -/
def Turn.op : Turn → Operation
  | .none => .rotate0
  | .quarter => .rotate90
  | .half => .rotate180
  | .threeQuarters => .rotate270

/-- The pixel of a `w` by `h` image that its turn has at `p`: the inverses of the maps of rules R141 to R144. -/
def Turn.source (w h : Nat) (p : Nat × Nat) : Turn → Nat × Nat
  | .none => p
  | .quarter => (p.2, h - 1 - p.1)
  | .half => (w - 1 - p.1, h - 1 - p.2)
  | .threeQuarters => (w - 1 - p.2, p.1)

theorem Turn.source_lt {c : Config} {w h x y : Nat} (k : Turn) (hx : x < (outDims c w h k.op).1)
    (hy : y < (outDims c w h k.op).2) : (k.source w h (x, y)).1 < w ∧ (k.source w h (x, y)).2 < h := by
  cases k <;> simp only [Turn.op, outDims, Turn.source] at hx hy ⊢ <;> omega

/-- A turn keeps the number of pixels. -/
theorem Turn.area (c : Config) (w h : Nat) (k : Turn) : (outDims c w h k.op).1 * (outDims c w h k.op).2 = w * h := by
  cases k with
  | none => rfl
  | half => rfl
  | quarter => exact Nat.mul_comm h w
  | threeQuarters => exact Nat.mul_comm h w

/-- Each pixel of a turned image is the one of `Turn.source`. -/
theorem Turn.transform_pixel {c : Config} {m : Memory} {w h x y ch : Nat} (k : Turn)
    (hx : x < (outDims c w h k.op).1) (hy : y < (outDims c w h k.op).2) (hch : ch < c.channels) :
    (transform c w h (m.readBytes 0 (w * h * c.channels)) k.op).getD
        (pixelIndex c.channels (outDims c w h k.op).1 x y ch) 0 =
      m.read (pixelIndex c.channels w (k.source w h (x, y)).1 (k.source w h (x, y)).2 ch) := by
  obtain ⟨hsx, hsy⟩ := k.source_lt hx hy
  rw [← pixelByte_readBytes hsx hsy hch]
  cases k with
  | none => rw [Turn.op, transform, rotate0Bytes]; exact layOut_pixel _ hx hy hch
  | quarter => rw [Turn.op, transform, rotate90Bytes]; exact layOut_pixel _ hx hy hch
  | half => rw [Turn.op, transform, rotate180Bytes]; exact layOut_pixel _ hx hy hch
  | threeQuarters => rw [Turn.op, transform, rotate270Bytes]; exact layOut_pixel _ hx hy hch

/-- The bytes of channel `c` at a pixel of the input image given as a pair. -/
def inputAt (s : State) (w : Nat) (p : Nat × Nat) (c : Nat) : Byte := inputPixel s w p.1 p.2 c

/-- In PROCESSING a turn of a non-empty image that fits leaves the turned image. -/
theorem exec_turn {w h : Word} {s : State} (k : Turn) (hp : s.ctrl = .processing) (hw : w ≠ 0) (hh : h ≠ 0)
    (hf : w.toNat * h.toNat * s.cfg.channels ≤ s.cfg.frameBufferSize) :
    ∃ t, exec (k.op.toInstr w h) s = .next t ∧ EndedIn .done s t ∧
      HoldsImage t (outDims s.cfg w.toNat h.toNat k.op).1 (outDims s.cfg w.toNat h.toNat k.op).2 fun x y =>
        inputAt s w.toNat (k.source w.toNat h.toNat (x, y)) :=
  exec_toInstr_holdsImage hp hw hh (by cases k <;> nofun) (by rwa [k.area]) fun _ _ _ => k.transform_pixel

/-- Settles O44: the source of each pixel is that pixel. -/
theorem rotateByZeroIsTheIdentity : Obligations.RotateByZeroIsTheIdentity := by
  intro s w h hp hw hh hwMax hhMax
  obtain ⟨t, hexec, hend, himage⟩ := exec_turn .none hp hw hh (image_fits hwMax hhMax)
  exact ⟨t, hexec, hend, himage.1, himage.2.1, fun k => himage.read_eq hend.channels fun x y c _ _ _ => rfl⟩

/-- Reflecting a coordinate twice gives it back. -/
theorem reflect_reflect {n x : Nat} (h : x < n) : n - 1 - (n - 1 - x) = x := by omega

/-- Settles O46: the source of `(w-1-x, h-1-y)` is `(x, y)`. -/
theorem rotateByHalfTurnMirrorsThePixels : Obligations.RotateByHalfTurnMirrorsThePixels := by
  intro s w h hp hw hh hwMax hhMax
  obtain ⟨t, hexec, hend, himage⟩ := exec_turn .half hp hw hh (image_fits hwMax hhMax)
  refine ⟨t, hexec, hend, himage.1, himage.2.1, fun x y c hx hy hc => ?_⟩
  have source : Turn.source w.toNat h.toNat (w.toNat - 1 - x, h.toNat - 1 - y) .half = (x, y) :=
    Prod.ext (reflect_reflect hx) (reflect_reflect hy)
  refine (himage.pixel hend.channels (show _ < w.toNat by omega) (show _ < h.toNat by omega) hc).trans ?_
  rw [source, inputAt]

/-- Settles O47: the source of `(y, w-1-x)` is `(x, y)`. -/
theorem rotateByThreeQuartersPermutesThePixels : Obligations.RotateByThreeQuartersPermutesThePixels := by
  intro s w h hp hw hh hwMax hhMax
  obtain ⟨t, hexec, hend, himage⟩ := exec_turn .threeQuarters hp hw hh (image_fits hwMax hhMax)
  refine ⟨t, hexec, hend, himage.1, himage.2.1, fun x y c hx hy hc => ?_⟩
  have source : Turn.source w.toNat h.toNat (y, w.toNat - 1 - x) .threeQuarters = (x, y) :=
    Prod.ext (reflect_reflect hx) rfl
  refine (himage.pixel hend.channels (show _ < h.toNat from hy) (show _ < w.toNat by omega) hc).trans ?_
  rw [source, inputAt]

/-- A turn and then another of the turned image, uploaded to a device with the same parameters: each pixel is the first
turn's source of the second turn's source (rule R148). -/
theorem exec_turn_turn {w h w' h' : Word} {s : State} (k l : Turn) (hp : s.ctrl = .processing) (hw : w ≠ 0) (hh : h ≠ 0)
    (hf : w.toNat * h.toNat * s.cfg.channels ≤ s.cfg.frameBufferSize)
    (hdims : outDims s.cfg w.toNat h.toNat k.op = (w'.toNat, h'.toNat))
    (hback : outDims s.cfg w'.toNat h'.toNat l.op = (w.toNat, h.toNat)) :
    ∃ t, exec (k.op.toInstr w h) s = .next t ∧ ∀ u : State, u.cfg = s.cfg → u.ctrl = .processing →
      (∀ i, i < w.toNat * h.toNat * s.cfg.channels → u.input.read i = t.output.read i) →
      ∃ v, exec (l.op.toInstr w' h') u = .next v ∧ v.ctrl = .done ∧ v.outW = w.toNat ∧ v.outH = h.toNat ∧
        ∀ m : Memory,
          (∀ x y c, x < w.toNat → y < h.toNat → c < s.cfg.channels →
            inputAt s w.toNat (k.source w.toNat h.toNat (l.source w'.toNat h'.toNat (x, y))) c =
              m.read (pixelIndex s.cfg.channels w.toNat x y c)) →
          ∀ i, i < w.toNat * h.toNat * s.cfg.channels → v.output.read i = m.read i := by
  have area : w'.toNat * h'.toNat = w.toNat * h.toNat := by
    rw [← k.area s.cfg w.toNat h.toNat, hdims]
  have hw' : w'.toNat ≠ 0 ∧ h'.toNat ≠ 0 := by
    rw [← mul_ne_zero_iff, area, mul_ne_zero_iff]
    exact ⟨mt (toNat_eq_zero_iff w).1 hw, mt (toNat_eq_zero_iff h).1 hh⟩
  obtain ⟨t, hexec, hend, himage⟩ := exec_turn k hp hw hh hf
  refine ⟨t, hexec, fun u hcfg hup hcopy => ?_⟩
  obtain ⟨v, hexec', hend', himage'⟩ := exec_turn (s := u) l hup (mt (toNat_eq_zero_iff w').2 hw'.1)
    (mt (toNat_eq_zero_iff h').2 hw'.2) (by rwa [area, hcfg])
  rw [hdims] at himage
  rw [hcfg, hback] at himage'
  refine ⟨v, hexec', hend'.ctrl, himage'.1, himage'.2.1, fun m hm i => ?_⟩
  have sameChannels : u.cfg.channels = s.cfg.channels := by rw [hcfg]
  refine himage'.read_eq (hend'.channels.trans sameChannels) fun x y c hx hy hc => ?_
  rw [← hm x y c hx hy hc]
  obtain ⟨hsx, hsy⟩ := l.source_lt (c := s.cfg) (w := w'.toNat) (h := h'.toNat) (x := x) (y := y)
    (by rwa [hback]) (by rwa [hback])
  exact himage.inputPixel_copy (hend.channels.trans sameChannels.symm) (by rwa [hcfg, area]) hsx hsy (by rwa [hcfg])

/-- A turn and then one that undoes it give the original image. -/
theorem exec_turn_back {w h w' h' : Word} {s : State} (k l : Turn) (hp : s.ctrl = .processing) (hw : w ≠ 0) (hh : h ≠ 0)
    (hf : w.toNat * h.toNat * s.cfg.channels ≤ s.cfg.frameBufferSize)
    (hdims : outDims s.cfg w.toNat h.toNat k.op = (w'.toNat, h'.toNat))
    (hback : outDims s.cfg w'.toNat h'.toNat l.op = (w.toNat, h.toNat))
    (hundo : ∀ x y, x < w.toNat → y < h.toNat →
      k.source w.toNat h.toNat (l.source w'.toNat h'.toNat (x, y)) = (x, y)) :
    ∃ t, exec (k.op.toInstr w h) s = .next t ∧ ∀ u : State, u.cfg = s.cfg → u.ctrl = .processing →
      (∀ i, i < w.toNat * h.toNat * s.cfg.channels → u.input.read i = t.output.read i) →
      ∃ v, exec (l.op.toInstr w' h') u = .next v ∧ v.ctrl = .done ∧ v.outW = w.toNat ∧ v.outH = h.toNat ∧
        ∀ i, i < w.toNat * h.toNat * s.cfg.channels → v.output.read i = s.input.read i := by
  obtain ⟨t, hexec, hthen⟩ := exec_turn_turn k l hp hw hh hf hdims hback
  refine ⟨t, hexec, fun u hcfg hup hcopy => ?_⟩
  obtain ⟨v, hexec', hdone, houtW, houtH, hbytes⟩ := hthen u hcfg hup hcopy
  exact ⟨v, hexec', hdone, houtW, houtH, hbytes _ fun x y c hx hy _ => by rw [hundo x y hx hy, inputAt, inputPixel]⟩

/-- Settles O48: the source of the source of each pixel is that pixel. -/
theorem quarterTurnsRoundTrip : Obligations.QuarterTurnsRoundTrip := by
  intro s w h i j swap hp hw hh hwMax hhMax hturns
  have fits := image_fits hwMax hhMax
  obtain ⟨rfl, rfl, rfl⟩ | ⟨rfl, rfl, rfl⟩ | ⟨rfl, rfl, rfl⟩ := hturns
  · exact exec_turn_back (w' := h) (h' := w) .quarter .threeQuarters hp hw hh fits rfl rfl
      fun x y _ hy => Prod.ext rfl (reflect_reflect hy)
  · exact exec_turn_back (w' := h) (h' := w) .threeQuarters .quarter hp hw hh fits rfl rfl
      fun x y hx _ => Prod.ext (reflect_reflect hx) rfl
  · exact exec_turn_back (w' := w) (h' := h) .half .half hp hw hh fits rfl rfl
      fun x y hx hy => Prod.ext (reflect_reflect hx) (reflect_reflect hy)

/-- Settles O49: the source of the source of each pixel is its source in the half turn. -/
theorem twoQuarterTurnsAreAHalfTurn : Obligations.TwoQuarterTurnsAreAHalfTurn := by
  intro s w h hp hw hh hwMax hhMax
  have fits := image_fits hwMax hhMax
  obtain ⟨t, hexec, hthen⟩ := exec_turn_turn (w' := h) (h' := w) .quarter .quarter hp hw hh fits rfl rfl
  obtain ⟨r, hexecR, hendR, himageR⟩ := exec_turn .half hp hw hh fits
  refine ⟨t, r, hexec, hexecR, hendR.ctrl, fun u hcfg hup hcopy => ?_⟩
  obtain ⟨v, hexec', hdone, houtW, houtH, hbytes⟩ := hthen u hcfg hup hcopy
  refine ⟨v, hexec', hdone, houtW.trans himageR.1.symm, houtH.trans himageR.2.1.symm,
    hbytes _ fun x y c hx hy hc => ?_⟩
  exact (himageR.pixel hendR.channels hx hy hc).symm

/-! ### The general rotation (rules R145 to R147) -/

/-- A pixel of a general rotation is `FILL` in every channel or a copy of one input pixel (P3 of rule R147). -/
theorem rotateGenBytes_pixel (c : Config) (m : Memory) {w h an x y : Nat} (hx : x < (generalCanvas c w h an).1)
    (hy : y < (generalCanvas c w h an).2) :
    (∀ ch, ch < c.channels →
      (rotateGenBytes c w h an (m.readBytes 0 (w * h * c.channels))).getD
        (pixelIndex c.channels (generalCanvas c w h an).1 x y ch) 0 = c.fill) ∨
    ∃ sx sy, sx < w ∧ sy < h ∧ ∀ ch, ch < c.channels →
      (rotateGenBytes c w h an (m.readBytes 0 (w * h * c.channels))).getD
        (pixelIndex c.channels (generalCanvas c w h an).1 x y ch) 0 = m.read (pixelIndex c.channels w sx sy ch) := by
  unfold rotateGenBytes
  cases hsource : generalSource c w h an (m.readBytes 0 (w * h * c.channels)) x y with
  | none => exact .inl fun ch hch => by rw [layOut_pixel _ hx hy hch, hsource]
  | some p =>
    obtain ⟨sx, sy⟩ := p
    by_cases inside : sx < w ∧ sy < h
    · refine .inr ⟨sx, sy, inside.1, inside.2, fun ch hch => ?_⟩
      rw [layOut_pixel _ hx hy hch, hsource]
      exact (if_pos inside).trans (pixelByte_readBytes inside.1 inside.2 hch)
    · refine .inl fun ch hch => ?_
      rw [layOut_pixel _ hx hy hch, hsource]
      exact if_neg inside

/-- Settles O50: the pixels are those of `rotateGenBytes_pixel`, and a canvas too large is a cause. -/
theorem generalRotationFillsOrCopies : Obligations.GeneralRotationFillsOrCopies := by
  intro s w h an ow oh hp hw hh hcanvas
  obtain rfl : (generalCanvas s.cfg w.toNat h.toNat an).1 = ow := by rw [hcanvas]
  obtain rfl : (generalCanvas s.cfg w.toNat h.toNat an).2 = oh := by rw [hcanvas]
  refine ⟨fun hfits => ?_, fun tooLarge => exec_toInstr_error (op := .rotateGen an) hp (.inr (.inr tooLarge))⟩
  obtain ⟨t, hexec, hend, houtW, houtH, hout⟩ := exec_toInstr_done (op := .rotateGen an) hp hw hh nofun hfits
  refine ⟨t, hexec, hend, houtW, houtH, fun x y hx hy => ?_⟩
  simp only [hout, Memory.read_ofBytes]
  exact rotateGenBytes_pixel s.cfg s.input hx hy

end Sys2Proof.Machine

/-! ### Colour spaces (rules R160 to R164) -/

namespace Sys2Proof.Machine

/-- A value of a byte is that byte's value. -/
theorem toNat_ofInt_byte {n : Int} (h0 : 0 ≤ n) (h1 : n < 256) : ((BitVec.ofInt 8 n).toNat : Int) = n := by
  rw [BitVec.toNat_ofInt]
  omega

theorem lumaOf_toNat (r g b : Byte) :
    ((lumaOf r g b).toNat : Int) = (299 * (r.toNat : Int) + 587 * g.toNat + 114 * b.toNat) / 1000 := by
  have isByte : (299 * r.toNat + 587 * g.toNat + 114 * b.toNat) / 1000 < 2 ^ 8 := by omega
  rw [lumaOf, BitVec.toNat_ofNat, Nat.mod_eq_of_lt isByte]
  omega

theorem chromaUOf_toNat (r g b : Byte) :
    ((chromaUOf r g b).toNat : Int) = (-169 * (r.toNat : Int) - 331 * g.toNat + 500 * b.toNat + 128000) / 1000 :=
  toNat_ofInt_byte (by omega) (by omega)

theorem chromaVOf_toNat (r g b : Byte) :
    ((chromaVOf r g b).toNat : Int) = (500 * (r.toNat : Int) - 419 * g.toNat - 81 * b.toNat + 128000) / 1000 :=
  toNat_ofInt_byte (by omega) (by omega)

/-- The clamp of rule R162 on the whole part. -/
theorem clampTenThousandths_toNat (n : Int) : ((clampTenThousandths n).toNat : Int) = max 0 (min 255 (n / 10000)) := by
  unfold clampTenThousandths
  split_ifs with negative large
  · rw [max_eq_left (by omega)]
    rfl
  · rw [min_eq_left (by omega)]
    rfl
  · rw [toNat_ofInt_byte (by omega) (by omega), min_eq_right (by omega), max_eq_right (by omega)]

/-- In PROCESSING a colour conversion of a non-empty image within the maximum dimensions, by `convert`, leaves the image
of the converted pixels. -/
theorem exec_colour_holdsImage {op : Operation} {convert : Byte → Byte → Byte → Nat → Byte} {w h : Word} {s : State}
    (htransform : ∀ img, transform s.cfg w.toNat h.toNat img op = layOut 3 w.toNat h.toNat fun x y =>
      convert (pixelByte img 3 w.toNat x y 0) (pixelByte img 3 w.toNat x y 1) (pixelByte img 3 w.toNat x y 2))
    (hdims : outDims s.cfg w.toNat h.toNat op = (w.toNat, h.toNat))
    (hp : s.ctrl = .processing) (hw : w ≠ 0) (hh : h ≠ 0) (hwMax : w.toNat ≤ s.cfg.maxWidth)
    (hhMax : h.toNat ≤ s.cfg.maxHeight) (hch : s.cfg.channels = 3) :
    ∃ t, exec (op.toInstr w h) s = .next t ∧ EndedIn .done s t ∧ t.outW = w.toNat ∧ t.outH = h.toNat ∧
      ∀ x y, x < w.toNat → y < h.toNat → ∀ c, c < 3 →
        t.output.read (pixelIndex 3 w.toNat x y c) =
          convert (inputPixel s w.toNat x y 0) (inputPixel s w.toNat x y 1) (inputPixel s w.toNat x y 2) c := by
  have fits := image_fits hwMax hhMax
  obtain ⟨t, hexec, hend, houtW, houtH, hout⟩ := exec_toInstr_done hp hw hh (fun _ => hch) (by rwa [hdims])
  rw [hdims] at houtW houtH
  refine ⟨t, hexec, hend, houtW, houtH, fun x y hx hy c hc => ?_⟩
  have input : ∀ ch, ch < 3 → pixelByte (s.input.readBytes 0 (w.toNat * h.toNat * 3)) 3 w.toNat x y ch =
      inputPixel s w.toNat x y ch := fun ch hlt => by
    rw [inputPixel, hch]
    exact pixelByte_readBytes hx hy hlt
  rw [hout, Memory.read_ofBytes, htransform, layOut_pixel _ hx hy hc, hch, input 0 (by omega), input 1 (by omega),
    input 2 (by omega)]

/-- Settles O52: the three channels of `yuvChannel`, as integers. -/
theorem rgbToYuvConvertsEachPixel : Obligations.RgbToYuvConvertsEachPixel := by
  intro s w h hp hw hh hwMax hhMax hch
  obtain ⟨t, hexec, hend, houtW, houtH, pixels⟩ :=
    exec_colour_holdsImage (op := .rgbToYuv) (convert := yuvChannel) (fun _ => rfl) rfl hp hw hh hwMax hhMax hch
  refine ⟨t, hexec, hend, houtW, houtH, fun x y hx hy => ⟨_, _, _, rfl, rfl, rfl, ?_, ?_, ?_⟩⟩
  · rw [pixels x y hx hy 0 (by omega)]
    exact lumaOf_toNat _ _ _
  · rw [pixels x y hx hy 1 (by omega)]
    exact chromaUOf_toNat _ _ _
  · rw [pixels x y hx hy 2 (by omega)]
    exact chromaVOf_toNat _ _ _

/-- Settles O53: the three channels of `rgbChannel`, as integers. -/
theorem yuvToRgbConvertsEachPixel : Obligations.YuvToRgbConvertsEachPixel := by
  intro s w h hp hw hh hwMax hhMax hch
  obtain ⟨t, hexec, hend, houtW, houtH, pixels⟩ :=
    exec_colour_holdsImage (op := .yuvToRgb) (convert := rgbChannel) (fun _ => rfl) rfl hp hw hh hwMax hhMax hch
  refine ⟨t, hexec, hend, houtW, houtH, fun x y hx hy => ⟨_, _, _, rfl, rfl, rfl, ?_, ?_, ?_⟩⟩
  · rw [pixels x y hx hy 0 (by omega)]
    exact clampTenThousandths_toNat _
  · rw [pixels x y hx hy 1 (by omega)]
    exact clampTenThousandths_toNat _
  · rw [pixels x y hx hy 2 (by omega)]
    exact clampTenThousandths_toNat _

/-- Clamping keeps a value within `lo` and `hi` of a byte, since the byte itself is in range. -/
theorem clamp_error {b : Byte} {q lo hi : Int} (hlo : lo ≤ q - b.toNat) (hhi : q - b.toNat ≤ hi) (hlo0 : lo ≤ 0)
    (hhi0 : 0 ≤ hi) : lo ≤ max 0 (min 255 q) - b.toNat ∧ max 0 (min 255 q) - b.toNat ≤ hi := by
  have := b.isLt
  omega

/-- A byte in ten-thousandths is that byte. -/
theorem clampTenThousandths_byte (b : Byte) : clampTenThousandths (10000 * (b.toNat : Int)) = b := by
  have isByte := b.isLt
  apply BitVec.eq_of_toNat_eq
  apply Int.ofNat_inj.1
  rw [clampTenThousandths_toNat]
  omega

/-- A grey pixel has itself for `Y` and 128 for `U` and `V`, so it comes back exactly (rule R164). -/
theorem grey_exact (r : Byte) :
    redOf (lumaOf r r r) (chromaVOf r r r) = r ∧
      greenOf (lumaOf r r r) (chromaUOf r r r) (chromaVOf r r r) = r ∧ blueOf (lumaOf r r r) (chromaUOf r r r) = r := by
  have luma : ((lumaOf r r r).toNat : Int) = r.toNat := by
    rw [lumaOf_toNat]
    omega
  have chromaU : ((chromaUOf r r r).toNat : Int) = 128 := by
    rw [chromaUOf_toNat]
    omega
  have chromaV : ((chromaVOf r r r).toNat : Int) = 128 := by
    rw [chromaVOf_toNat]
    omega
  simp [redOf, greenOf, blueOf, luma, chromaU, chromaV, clampTenThousandths_byte]

/-- Settles O55: by `clamp_error` each error is that of the exact value, in which the truncations of both ways add up;
greys by `grey_exact`. -/
theorem colourRoundTripErrorIsBounded : Obligations.ColourRoundTripErrorIsBounded := by
  intro r g b
  have greys : r = g ∧ g = b →
      redOf (lumaOf r g b) (chromaVOf r g b) = r ∧ greenOf (lumaOf r g b) (chromaUOf r g b) (chromaVOf r g b) = g ∧
        blueOf (lumaOf r g b) (chromaUOf r g b) = b := by
    rintro ⟨rfl, rfl⟩
    exact grey_exact r
  have hr := r.isLt
  have hg := g.isLt
  have hb := b.isLt
  have y := lumaOf_toNat r g b
  have u := chromaUOf_toNat r g b
  have v := chromaVOf_toNat r g b
  simp only [redOf, greenOf, blueOf, clampTenThousandths_toNat] at greys ⊢
  refine ⟨clamp_error ?_ ?_ ?_ ?_, clamp_error ?_ ?_ ?_ ?_, clamp_error ?_ ?_ ?_ ?_, greys⟩ <;> omega

/-- Settles O51, by evaluation. -/
theorem idealRotationOfTheThreeByThreeVector : Obligations.IdealRotationOfTheThreeByThreeVector := by
  unfold Obligations.IdealRotationOfTheThreeByThreeVector
  decide +kernel

end Sys2Proof.Machine

/-! ### The input buffer: its only writer and its only reader (rule R21) -/

namespace Sys2Proof.Machine

/-! #### The writer -/

@[simp] theorem writeControl_input (v : Word) (s : State) : (writeControl v s).input = s.input := by
  obtain ⟨_, _, _, _, _, h⟩ := writeControl_frame v s
  rw [h]

@[simp] theorem finishProcessing_input (s : State) : (finishProcessing s).input = s.input := by
  unfold finishProcessing
  split
  · rfl
  · exact finishWith_input _ s

theorem controllerTurn_input {s t : State} (h : controllerTurn s = .next t) : t.input = s.input := by
  obtain ⟨armed, he⟩ | ⟨-, d, -, rfl⟩ | ⟨-, -, rfl⟩ := controllerTurn_cases h
  · rw [execComplete_armed armed] at he
    cases he
    split_ifs <;> simp
  · exact finishWith_input _ s
  · rfl

/-- A step that changes `input` delivered a write in the pixel window (rule R81). -/
theorem step_pixelWrite_of_input_ne {s t : State} (h : step s = .next t) (hne : t.input ≠ s.input) :
    ∃ a data rest, s.events = .bus (.write a data) :: rest ∧ s.cfg.inPixelWindow a data.length := by
  obtain ⟨-, -, hcases⟩ := step_cases h
  obtain ⟨tr, rest, i, he, hd, hx⟩ | ⟨tr, rest, r, -, -, rfl⟩ | ⟨-, now, events, ht, -⟩ |
    ⟨-, now, events, rfl, -⟩ := hcases
  · obtain ⟨v, -, rfl⟩ | ⟨-, ⟨r, -, rfl⟩ | ⟨r, v, -, -, rfl⟩ | ⟨a, n, -, -, -, rfl⟩ | ⟨a, d, -, rfl, hw, -, rfl⟩⟩ :=
      exec_transaction_cases hd hx
    · exact absurd (writeControl_input v { s with events := rest }) hne
    · exact absurd rfl hne
    · exact absurd rfl hne
    · exact absurd rfl hne
    · exact ⟨a, d, rest, he, hw⟩
  · exact absurd rfl hne
  · exact absurd (controllerTurn_input ht) hne
  · exact absurd rfl hne

/-! #### Two devices that differ in `input` -/

/-- The device `s` with the buffer `m` for its `input`. -/
def State.withInput (m : Memory) (s : State) : State := { s with input := m }

@[simp] theorem withInput_cfg (m : Memory) (s : State) : (s.withInput m).cfg = s.cfg := rfl

/-- The device `s` at another time, with another list. -/
def State.withSchedule (now : Nat) (events : List Event) (s : State) : State := { s with now := now, events := events }

/-- A control write reads nothing of `input`. -/
theorem writeControl_withInput (v : Word) (s : State) (m : Memory) :
    writeControl v (s.withInput m) = (writeControl v s).withInput m := by
  by_cases hp : s.ctrl = .processing
  · rw [writeControl_processing hp, writeControl_processing (s := s.withInput m) hp]
  · cases hs : startOf s.cfg v with
    | true =>
      rw [writeControl_trigger hp hs, writeControl_trigger (s := s.withInput m) hp hs]
      rfl
    | false =>
      rw [writeControl_plain hp hs, writeControl_plain (s := s.withInput m) hp hs]
      rfl

/-- A decoded transaction reads nothing of `input`. -/
theorem exec_transaction_withInput {c : Config} {tr : Transaction} {i : Instr} {s t : State} (m : Memory)
    (hd : decode c (.transaction tr) = .instr i) (h : exec i s = .next t) :
    ∃ m', exec i (s.withInput m) = .next (t.withInput m') := by
  obtain ⟨v, rfl, rfl⟩ | ⟨-, ⟨r, rfl, rfl⟩ | ⟨r, v, hr, rfl, rfl⟩ | ⟨a, n, rfl, -, -, rfl⟩ |
    ⟨a, d, rfl, -, -, hp, rfl⟩⟩ := exec_transaction_cases hd h
  · refine ⟨m, ?_⟩
    rw [exec_wr32Control, writeControl_withInput]
    rfl
  · exact ⟨m, exec_readInstr r _⟩
  · exact ⟨m, exec_writeInstr hr v _⟩
  · exact ⟨m, exec_pixRd a n _⟩
  · exact ⟨m.writeBytes a d, exec_pixWr (s := s.withInput m) hp a d⟩

/-- The finish part reads nothing of `input` unless it ends an operation: then there is no descriptor to run. -/
theorem finishProcessing_withInput {s : State} (m : Memory)
    (hn : ¬ ((finishProcessing s).ctrl = .done ∨ (finishProcessing s).ctrl = .error)) :
    finishProcessing (s.withInput m) = (finishProcessing s).withInput m := by
  cases hd : s.desc with
  | none => simp only [finishProcessing, State.withInput, hd]
  | some d =>
    rw [finishProcessing_some hd] at hn
    exact absurd (finishWith_ctrl _ _) hn

/-- The controller's turn reads nothing of `input` unless it ends an operation. -/
theorem controllerTurn_withInput {s t : State} (m : Memory) (h : controllerTurn s = .next t)
    (hn : ¬ EndsOperation s t) : controllerTurn (s.withInput m) = .next (t.withInput m) := by
  by_cases ha : s.ctrl = .armed
  · rw [controllerTurn_armed ha] at h
    rw [controllerTurn_armed (s := s.withInput m) ha, withInput_cfg]
    cases h
    rw [Host.Outcome.next.injEq]
    simp only [EndsOperation, ha, true_or, true_and] at hn
    split_ifs at hn ⊢
    · exact finishProcessing_withInput m hn
    · rfl
  by_cases hp : s.ctrl = .processing
  · rw [controllerTurn_processing hp] at h
    rw [controllerTurn_processing (s := s.withInput m) hp]
    cases h
    rw [finishProcessing_withInput m fun hend => hn ⟨.inr hp, hend⟩]
  · have hr := atRest_of_ne ha hp
    rw [controllerTurn_atRest hr] at h
    cases h
    exact controllerTurn_atRest (s := s.withInput m) hr

/-- What a step without a transaction does to the clock and the list, and whether the controller then takes its turn, is
the same for every `input`. -/
theorem step_schedule {s : State} (hf : s.fatal = none) (hl : s.cfg.Legal)
    (hb : ∀ tr rest, s.events ≠ .bus tr :: rest) :
    ∃ now events,
      (∀ m, step (s.withInput m) = controllerTurn ((s.withSchedule now events).withInput m)) ∨
        ∀ m, step (s.withInput m) = .next ((s.withSchedule now events).withInput m) := by
  cases he : s.events with
  | nil =>
    refine ⟨if s.cfg.timed then max s.now (s.pending.getD 0) else s.now, s.events, .inl fun m => ?_⟩
    rw [step_undelivered (s := s.withInput m) hf hl he, undisturbed, withInput_cfg]
    split_ifs <;> rfl
  | cons e rest =>
    cases e with
    | bus tr => exact absurd he (hb tr rest)
    | complete =>
      have sameTurn := fun m => step_complete (s := s.withInput m) hf hl he
      by_cases enabled : controllerEnabled s = true
      · exact ⟨s.now, rest, .inl fun m => (sameTurn m).trans (if_pos enabled)⟩
      · exact ⟨s.now, rest, .inr fun m => (sameTurn m).trans (if_neg enabled)⟩
    | advance n =>
      have sameTime := fun m => step_advance (s := s.withInput m) hf hl he
      by_cases hfree : ∀ p, s.pending = some p → s.cfg.timed = true → s.now + n ≤ p
      · exact ⟨s.now + n, rest, .inr fun m => (sameTime m).trans (advanceTime_free (s := s.withInput m) rest hfree)⟩
      push Not at hfree
      obtain ⟨p, hp, ht, hpast⟩ := hfree
      by_cases hahead : s.now < p
      · exact ⟨p, .advance (s.now + n - p) :: rest, .inr fun m =>
          (sameTime m).trans (advanceTime_stops (s := s.withInput m) rest hp ht hpast hahead)⟩
      · exact ⟨s.now, s.events, .inl fun m =>
          (sameTime m).trans (advanceTime_due (s := s.withInput m) rest hp ht hpast hahead)⟩

/-- A step with a transaction reads nothing of `input`. -/
theorem step_withInput_of_transaction {s t : State} {tr : Transaction} {rest : List Event} (m : Memory)
    (h : step s = .next t) (he : s.events = .bus tr :: rest) : ∃ m', step (s.withInput m) = .next (t.withInput m') := by
  obtain ⟨hf, hl, -⟩ := step_cases h
  rw [step_bus (s := s.withInput m) hf hl he]
  obtain ⟨i, hd, hx⟩ | ⟨r, hd, rfl⟩ := step_with_transaction h he
  · obtain ⟨m', hx'⟩ := exec_transaction_withInput m hd hx
    exact ⟨m', Eq.trans (runCode_instr (s := State.withInput m { s with events := rest }) hd) hx'⟩
  · exact ⟨m, runCode_violation hd⟩

/-- A step without a transaction reads nothing of `input` unless it ends an operation. -/
theorem step_withInput_of_no_transaction {s t : State} (m : Memory) (h : step s = .next t)
    (hb : ∀ tr rest, s.events ≠ .bus tr :: rest) (hn : ¬ EndsOperation s t) :
    step (s.withInput m) = .next (t.withInput m) := by
  obtain ⟨hf, hl, -⟩ := step_cases h
  obtain ⟨now, events, hturn | hwait⟩ := step_schedule hf hl hb
  · rw [hturn m]
    exact controllerTurn_withInput (s := s.withSchedule now events) m ((hturn s.input).symm.trans h) hn
  · rw [hwait m]
    cases (hwait s.input).symm.trans h
    rfl

/-- Settles O35: the writer by the cases of a step, the reader by comparing the steps of two devices. -/
theorem inputIsTheBusToWriteAndTheEnginesToRead : Obligations.InputIsTheBusToWriteAndTheEnginesToRead := by
  refine ⟨fun s t => step_pixelWrite_of_input_ne, fun s t m h hquiet => ?_⟩
  by_cases hb : ∃ tr rest, s.events = .bus tr :: rest
  · obtain ⟨tr, rest, he⟩ := hb
    obtain ⟨m', hu⟩ := step_withInput_of_transaction m h he
    exact ⟨_, hu, rfl⟩
  · have noTransaction : ∀ tr rest, s.events ≠ .bus tr :: rest := fun tr rest he => hb ⟨tr, rest, he⟩
    exact ⟨_, step_withInput_of_no_transaction m h noTransaction (hquiet.resolve_left hb), rfl⟩

end Sys2Proof.Machine
